-- ==== Sys2Proof/Word.lean ====
section
/-!
DEFINITION. The two bit-vector types of the block: 32-bit bus words (spec/20_memory.md R71) and bytes.
-/

namespace Sys2Proof

/-- A 32-bit bus word: every legal transaction moves exactly 32 bits (R71). -/
abbrev Word := BitVec 32

/-- A raw byte of a row, or a byte of the canonical Frame. -/
abbrev Byte := BitVec 8

/-- A byte offset inside the block's 8 KiB window, 0x0000 to 0x1FFF (R60). -/
abbrev Offset := BitVec 13

end Sys2Proof
end

