-- ==== Sys2Proof/Syntax.lean ====
section
/-!
DEFINITION. The instructions of the block: one constructor per row of spec/opcode_table.json.
-/

namespace Sys2Proof

/-- A command, written to CMD as one 32-bit word (R90, R91). Commands take no operands (R103). -/
inductive Instr where
  /-- OP 0x0, R222 -/
  | nop
  /-- OP 0x1, R223 to R226 -/
  | decode
  /-- OP 0x2, R227 -/
  | clearTable
  deriving DecidableEq, Repr

end Sys2Proof
end

