-- ==== Sys2Proof/WellFormed.lean ====
section
/-!
DEFINITION. What makes a command, and a command word, well formed (spec/30_encoding.md R90 to R92, R103).
-/

namespace Sys2Proof

/-- OP, bits [3:0] of a command word (R90). -/
def cmdOp (w : Word) : BitVec 4 := w.extractLsb' 0 4

/-- RSV, bits [31:4] of a command word (R90). -/
def cmdRsv (w : Word) : BitVec 28 := w.extractLsb' 4 28

/-- OP names a command: 0x3 to 0xF are reserved (R92). -/
def cmdOpOk (w : Word) : Bool := (cmdOp w).toNat ≤ 2

/-- RSV "must be 0" (R90). -/
def cmdRsvOk (w : Word) : Bool := cmdRsv w == 0

/-- A command word is well formed when neither case of R92 applies to it. -/
def cmdWordOk (w : Word) : Bool := cmdOpOk w && cmdRsvOk w

/-- Every command is well formed: it carries no operand that could be out of range (R103). -/
def Instr.wellFormed : Instr → Bool
  | .nop => true
  | .decode => true
  | .clearTable => true

end Sys2Proof
end

