-- ==== Sys2Proof/Decode.lean ====
section
/-!
DEFINITION. The decoder of CMD words, total on any word and any bytes, and the encoder
(spec/30_encoding.md R90 to R92, R102; spec/opcode_table.json).
-/

namespace Sys2Proof

/-- Why a command word is no command (R92), or why bytes hold no command word. -/
inductive DecodeError where
  /-- a RSV bit is 1 (R92, second case) -/
  | reservedBits
  /-- RSV is 0 and OP is in 0x3 to 0xF (R92, first case) -/
  | reservedOpcode
  /-- fewer than the four bytes every command has (R90) -/
  | truncated
  deriving DecidableEq, Repr

/-- One row of spec/opcode_table.json. -/
structure OpcodeRow where
  /-- the bits of the word that are compared -/
  mask : Word
  /-- what those bits must be -/
  pattern : Word
  /-- the command the row stands for -/
  instr : Instr
  deriving DecidableEq, Repr

/-- spec/opcode_table.json: "match = the full word and mask = 0xFFFFFFFF" (R91). -/
def opcodeTable : List OpcodeRow :=
  [ ⟨0xFFFFFFFF#32, 0x00000000#32, .nop⟩
  , ⟨0xFFFFFFFF#32, 0x00000001#32, .decode⟩
  , ⟨0xFFFFFFFF#32, 0x00000002#32, .clearTable⟩ ]

/-- A row selects a word when the masked bits are the row's pattern. -/
def OpcodeRow.selects (row : OpcodeRow) (w : Word) : Bool := (w &&& row.mask) == row.pattern

/-- The command a CMD word selects, or why it is illegal (R91, R92). -/
def decodeWord (w : Word) : Except DecodeError Instr :=
  match opcodeTable.find? (·.selects w) with
  | some row => .ok row.instr
  | none => if cmdRsvOk w then .error .reservedOpcode else .error .reservedBits

/-- Four bytes as one word, the first byte least significant (R67). -/
def wordOfBytes (b0 b1 b2 b3 : Byte) : Word := b3 ++ b2 ++ b1 ++ b0

/-- Decode the first four bytes of a byte string; the rest is handed back. -/
def decodeBytes : List Byte → Except DecodeError (Instr × List Byte)
  | b0 :: b1 :: b2 :: b3 :: rest =>
    match decodeWord (wordOfBytes b0 b1 b2 b3) with
    | .ok i => .ok (i, rest)
    | .error e => .error e
  | _ => .error .truncated

/-- The bytes of a word in the block's byte order (R67). -/
def bytesOfWord (w : Word) : List Byte :=
  [w.extractLsb' 0 8, w.extractLsb' 8 8, w.extractLsb' 16 8, w.extractLsb' 24 8]

/-- The word of a command (R91, column "full word"). -/
def encode : Instr → Word
  | .nop => 0x00000000#32
  | .decode => 0x00000001#32
  | .clearTable => 0x00000002#32

/-- The host's question: the command the decoder reads from an instruction whose bits are `w`, bit 0 the least
significant bit of the word. Bits above `nbits` are 0, and a number that does not fit is no instruction. -/
def decodeTableWord (nbits w : Nat) : Option Instr :=
  if nbits ≤ 32 ∧ w < 2 ^ nbits then
    match decodeBytes (bytesOfWord (BitVec.ofNat 32 w)) with
    | .ok (i, _) => some i
    | .error _ => none
  else none

end Sys2Proof
end

