-- ==== Sys2Proof/Machine/Constants.lean ====
section
/-!
DEFINITION. The constants the source fixes (spec/00_scope.md R7) and those the spec decides (D6, D7).
-/

namespace Sys2Proof.Machine

/-- ROW_BITS: the bit length a row must have to be decoded. -/
def rowBits : Nat := 227

/-- FRAME_BYTES: bytes in the canonical Frame. -/
def frameBytes : Nat := 14

/-- PRE_RAW_BYTES: how many leading raw bytes are checked. -/
def preRawBytes : Nat := 3

/-- PREAMBLE_RAW: what each of them must be. -/
def preambleRaw : Byte := 0xAA#8

/-- SENTINEL_RAW: what the last raw byte must be. -/
def sentinelRaw : Byte := 0x69#8

/-- LAST_RAW_INDEX: the last byte wholly inside the 227 bits (R94, D7). -/
def lastRawIndex : Nat := rowBits / 8 - 1

/-- MANCH_START: the Manchester start offset (D6). -/
def manchStart : Nat := 0

/-- TRAILER: what Frame byte 13 must be. -/
def trailer : Byte := 0x65#8

/-- CH_MIN. -/
def chMin : Nat := 1

/-- CH_MAX. -/
def chMax : Nat := 16

/-- BCD_MAX: the largest valid BCD nibble. -/
def bcdMax : Nat := 9

/-- TEMP_MIN in tenths, inclusive. -/
def tempMin : Int := -400

/-- TEMP_MAX in tenths, inclusive. -/
def tempMax : Int := 600

/-- DELTA_MAX in tenths, inclusive. -/
def deltaMax : Nat := 120

/-- The bit of Frame byte 9 that SIGN_MASK = 0x08 selects. -/
def signBit : Nat := 3

end Sys2Proof.Machine
end

