-- ==== Sys2Proof/Config.lean ====
section
/-!
DEFINITION. What an implementation of the block fixes (spec/00_scope.md R8), and the free values the spec
tells a model to draw (spec/93_implementation_defined.md, treatment "any value").
Nothing here has a body, so no proof can see a value: a claim holds for every choice.
-/

namespace Sys2Proof.Config

/-- N_DEV less one. N_DEV is an OPEN parameter in 1..128 (R8, D16). -/
opaque nDevLessOne : Fin 128

/-- N_ROWS less one. N_ROWS is an OPEN parameter in 1..64 (R8, D17). -/
opaque nRowsLessOne : Fin 64

/-- BASE, the platform address of the 8 KiB window (R8, D2). -/
opaque base : Nat

/-- MODEL_NAME, the string the HOST attaches to a Reading; the block does not store it (R8, R228, D27). -/
opaque modelName : String

/-- Free value: how many host events fall between the issue of a command and its completion step.
The argument is the state's draw counter, so each command gets a draw of its own. Any natural number may come
out: every placement between two host events, and never "never", which is the fairness of R221. -/
opaque completionDelay : Nat → Nat

/-- Free value: word `w` of ROW_DATA[r] after reset (R33, R280, R286: "a model draws it").
The first argument is the state's draw counter, so two resets draw apart. -/
opaque rowDataDraw : Nat → Nat → Nat → Word

/-- N_DEV, the capacity of the device table. -/
def nDev : Nat := nDevLessOne.val + 1

/-- N_ROWS, the number of row slots. -/
def nRows : Nat := nRowsLessOne.val + 1

end Sys2Proof.Config
end

