-- ==== Sys2Proof/Machine/State.lean ====
section
/-!
DEFINITION. The state of the block as plain data (spec/10_state.md R20 to R43), the host's events that wait to
reach it (spec/20_memory.md R60, R61), and the state after reset (spec/70_reset_and_hazards.md R280).
-/

namespace Sys2Proof.Machine

/-- Why a step could stop with a fault. The type is EMPTY: "an error never stops the block" (R253) and "every failure
path returns a classified outcome, never terminates the process" (R229, R255). Nothing raises a fault, and no
claim is lost by that. -/
inductive Fault where
  deriving DecidableEq, Repr

/-- Why a step could be refused. -/
inductive Refusal where
  /-- Raised only by an arm of `exec` whose instruction has no meaning yet; no arm does. Safe: the run stops. -/
  | notModelled (mnemonic : String)
  deriving DecidableEq, Repr

/-- The instance's parameters, which PARAM reports and nothing changes (R8, R22). -/
structure Params where
  /-- N_DEV, 1..128 -/
  nDev : Nat
  /-- N_ROWS, 1..64 -/
  nRows : Nat
  deriving DecidableEq, Repr

/-- The parameters of this implementation. -/
def Params.ofConfig : Params := ⟨Config.nDev, Config.nRows⟩

/-- One row slot of row memory (R31). -/
structure Row where
  /-- ROW_LEN[r][15:0], the bit length (R32) -/
  len : BitVec 16
  /-- ROW_DATA[r][0..7] (R33) -/
  data : List Word
  deriving DecidableEq, Repr

/-- Row memory: the slots in index order (R31). It is a fixed array of registers, so its one canonical form is
its shape, which `RowMemory.wf` states. -/
abbrev RowMemory := List Row

/-- Row memory has N_ROWS slots of eight words each (R31, R33). -/
def RowMemory.wf (nRows : Nat) (m : RowMemory) : Bool :=
  m.length == nRows && m.all (fun row => row.data.length == 8)

/-- OUTCOME, the class of the last completed DECODE (R97). -/
inductive OutcomeClass where
  /-- no DECODE completed since reset -/
  | none
  | noCandidate
  | sanityFailure
  | accepted
  deriving DecidableEq, Repr

/-- REASON, the rejection reason (R98). Codes 10 to 15 are never produced, so they have no constructor. -/
inductive Reason where
  | none
  | noRow
  | preamble
  | sentinel
  | trailer
  /-- defined but unreachable (R157) -/
  | channel
  | bcd
  | tempRange
  | delta
  | tableFull
  deriving DecidableEq, Repr

/-- The fields of RESULT0 (R34); its reserved bits read 0. -/
structure Result0 where
  outcome : OutcomeClass
  reason : Reason
  suspiciousId : Bool
  neg : Bool
  rowSel : BitVec 6
  deriving DecidableEq, Repr

/-- The fields of RESULT1 (R35); its reserved bits read 0. -/
structure Result1 where
  deviceId : Byte
  channel : BitVec 5
  /-- signed, tenths of °C -/
  tempTenths : BitVec 16
  deriving DecidableEq, Repr

/-- RESULT0 = 0x00000000. -/
def Result0.zero : Result0 := ⟨.none, .none, false, false, 0#6⟩

/-- RESULT1 = 0x00000000. -/
def Result1.zero : Result1 := ⟨0#8, 0#5, 0#16⟩

/-- One slot of the device table (R38). -/
structure Slot where
  used : Bool
  /-- the source's "initialized flag" -/
  tracked : Bool
  id : Byte
  ch : BitVec 5
  /-- last accepted temperature, signed tenths -/
  last : BitVec 16
  deriving DecidableEq, Repr

/-- "A free slot has all fields 0" (R38). -/
def Slot.free : Slot := ⟨false, false, 0#8, 0#5, 0#16⟩

/-- The size of a bus access: n ∈ {1, 2, 4} bytes (R60). -/
inductive Size where
  | byte
  | half
  | word
  deriving DecidableEq, Repr

/-- One event from outside the block: a bus transaction (R60), one round of polling, or the reset input (R280). -/
inductive HostOp where
  /-- MemRead(addr, n) -/
  | read (addr : Offset) (n : Size)
  /-- MemWrite(addr, n, v) -/
  | write (addr : Offset) (n : Size) (v : Word)
  /-- read STATUS, and again until its BUSY bit reads 0 (R101, `POLL`) -/
  | poll
  /-- the reset input is asserted (R280) -/
  | reset
  deriving DecidableEq, Repr

/-- The whole state. CMD has no storage (R23). The hidden `busy`, and STATUS.BUSY that mirrors it, are `pending ≠ none`
(R42: "`pending` ≠ none exactly when busy = 1"), stored once. The last four fields are the model's own. -/
structure State where
  /-- PARAM (R22) -/
  param : Params
  /-- STATUS[1] DONE (R25) -/
  done : Bool
  /-- STATUS[8] ERR_ILLEGAL (R26) -/
  errIllegal : Bool
  /-- STATUS[9] ERR_BUSY (R27) -/
  errBusy : Bool
  /-- STATUS[10] ERR_ACCESS (R28) -/
  errAccess : Bool
  /-- the command accepted and not yet completed (R42) -/
  pending : Option Instr
  /-- NROWS (R30) -/
  nrows : BitVec 7
  /-- ROW_LEN and ROW_DATA (R31 to R33) -/
  rows : RowMemory
  /-- RESULT0 (R34) -/
  result0 : Result0
  /-- RESULT1 (R35) -/
  result1 : Result1
  /-- FRAME0 (R36) -/
  frame0 : Word
  /-- FRAME1 (R36) -/
  frame1 : Word
  /-- FRAME2 (R36) -/
  frame2 : Word
  /-- FRAME3 (R36) -/
  frame3 : Word
  /-- TABLE_COUNT (R37) -/
  tableCount : BitVec 8
  /-- Slot[0..N_DEV-1] (R38) -/
  slots : List Slot
  /-- MODEL: the host's events still to come, oldest first (R61, R72) -/
  host : List HostOp
  /-- MODEL: what the host's reads returned, newest first -/
  replies : List Word
  /-- MODEL: how many host events still come before the pending command's completion step (R221) -/
  wait : Nat
  /-- MODEL: how many free values have been drawn -/
  draws : Nat
  deriving DecidableEq, Repr

/-- The rows after reset: every length 0, every data word the draw numbered `k` (R32, R33, R280). -/
def drawnRows (nRows k : Nat) : RowMemory :=
  (List.range nRows).map fun r => ⟨0#16, (List.range 8).map fun w => Config.rowDataDraw k r w⟩

/-- The reset state of an instance with parameters `p` (R280), ROW_DATA taken from draw `k`. -/
def State.resetOf (p : Params) (k : Nat) : State where
  param := p
  done := false
  errIllegal := false
  errBusy := false
  errAccess := false
  pending := none
  nrows := 0#7
  rows := drawnRows p.nRows k
  result0 := Result0.zero
  result1 := Result1.zero
  frame0 := 0#32
  frame1 := 0#32
  frame2 := 0#32
  frame3 := 0#32
  tableCount := 0#8
  slots := List.replicate p.nDev Slot.free
  host := []
  replies := []
  wait := 0
  draws := k + 1

/-- The machine right after reset. -/
def State.reset : State := State.resetOf Params.ofConfig 0

end Sys2Proof.Machine
end

