-- ==== Sys2Proof/Machine/Operands.lean ====
section
/-!
DEFINITION. What DECODE reads: raw bytes and bits of a row (spec/30_encoding.md R93, spec/20_memory.md R67, R68), bytes
and nibbles of the canonical Frame (R95), and the row the Frame Locator selects (spec/40_line_decoder.md R120).
-/

namespace Sys2Proof.Machine

/-- Byte `b` of a word is bits [8b+7 : 8b] (R67). -/
def wordByte (w : Word) (b : Nat) : Byte := w.extractLsb' (8 * b) 8

/-- RowByte(r, j): raw byte `j` of a row (R33). -/
def rowByte (row : Row) (j : Nat) : Byte := wordByte (row.data.getD (j / 4) 0#32) (j % 4)

/-- RowBit(r, k) = RowByte(r, k >> 3)[7 - (k mod 8)]: the first bit received is bit 7 of raw byte 0 (R68, R93). -/
def rowBit (row : Row) (k : Nat) : Bool := (rowByte row (k / 8)).getLsbD (7 - k % 8)

/-- The byte whose bit `m` is `f m`. -/
def byteOfBits (f : Nat → Bool) : Byte :=
  BitVec.ofBool (f 7) ++ BitVec.ofBool (f 6) ++ BitVec.ofBool (f 5) ++ BitVec.ofBool (f 4) ++
    BitVec.ofBool (f 3) ++ BitVec.ofBool (f 2) ++ BitVec.ofBool (f 1) ++ BitVec.ofBool (f 0)

/-- A byte buffer: the Manchester decoder's output, and the canonical Frame of 14 bytes (R69, R95). -/
abbrev Frame := List Byte

/-- Frame[n]. -/
def Frame.byte (F : Frame) (n : Nat) : Byte := List.getD F n 0#8

/-- Frame[n][7:4]. -/
def Frame.hi (F : Frame) (n : Nat) : BitVec 4 := (F.byte n).extractLsb' 4 4

/-- Frame[n][3:0]. -/
def Frame.lo (F : Frame) (n : Nat) : BitVec 4 := (F.byte n).extractLsb' 0 4

/-- Row slot `r`; an index outside row memory has no row. -/
def State.row? (s : State) (r : Nat) : Option Row := s.rows[r]?

/-- Row slot `r`, for a reader that knows it exists; elsewhere an empty row of length 0. -/
def State.rowAt (s : State) (r : Nat) : Row := (s.row? r).getD ⟨0#16, []⟩

/-- ROW_LEN[r] = 227. -/
def isCandidate (s : State) (r : Nat) : Bool :=
  match s.row? r with
  | some row => row.len.toNat == rowBits
  | none => false

/-- The scan of R120 over `n` rows from index `r` upward. -/
def locateFrom (s : State) : (n r : Nat) → Option Nat
  | 0, _ => none
  | n + 1, r => if isCandidate s r then some r else locateFrom s n (r + 1)

/-- Locate(): the first row among 0..NROWS-1 whose length is 227 (R120). -/
def locate (s : State) : Option Nat := locateFrom s s.nrows.toNat 0

end Sys2Proof.Machine
end

