-- ==== Sys2Proof/Machine/Flags.lean ====
section
/-!
DEFINITION. The flags of the block (spec/10_state.md R43), and every register as the host reads it: STATUS (R24 to R29), PARAM (R22), RESULT0
and RESULT1 (R34, R35, R97, R98), the FRAME words (R36) and the slot views (R39, R40).
-/

namespace Sys2Proof.Machine

/-- The hidden `busy`, mirrored by STATUS.BUSY (R24, R42). -/
def State.busy (s : State) : Bool := s.pending.isSome

/-- STATUS as read: bit 0 BUSY, 1 DONE, 8 ERR_ILLEGAL, 9 ERR_BUSY, 10 ERR_ACCESS, every other bit 0 (R24 to R29). -/
def statusWord (s : State) : Word :=
  0#21 ++ BitVec.ofBool s.errAccess ++ BitVec.ofBool s.errBusy ++ BitVec.ofBool s.errIllegal ++ 0#6 ++
    BitVec.ofBool s.done ++ BitVec.ofBool s.busy

/-- A write to STATUS with BUSY = 0 clears each of the bits 1, 8, 9, 10 that is written as 1 (R29). -/
def writeStatus (v : Word) (s : State) : State :=
  { s with
    done := s.done && !v.getLsbD 1
    errIllegal := s.errIllegal && !v.getLsbD 8
    errBusy := s.errBusy && !v.getLsbD 9
    errAccess := s.errAccess && !v.getLsbD 10 }

/-- PARAM as read (R22). -/
def paramWord (p : Params) : Word :=
  BitVec.ofNat 16 rowBits ++ BitVec.ofNat 8 p.nRows ++ BitVec.ofNat 8 p.nDev

/-- The code of an outcome class (R97). -/
def OutcomeClass.code : OutcomeClass → BitVec 2
  | .none => 0#2
  | .noCandidate => 1#2
  | .sanityFailure => 2#2
  | .accepted => 3#2

/-- The code of a reason (R98). -/
def Reason.code : Reason → BitVec 4
  | .none => 0#4
  | .noRow => 1#4
  | .preamble => 2#4
  | .sentinel => 3#4
  | .trailer => 4#4
  | .channel => 5#4
  | .bcd => 6#4
  | .tempRange => 7#4
  | .delta => 8#4
  | .tableFull => 9#4

/-- The outcome class a reason belongs to, where it is a rejection (R98, R254). -/
def Reason.rejectClass : Reason → Option OutcomeClass
  | .none => Option.none
  | .noRow | .preamble | .sentinel => Option.some .noCandidate
  | .trailer | .channel | .bcd | .tempRange | .delta | .tableFull => Option.some .sanityFailure

/-- RESULT0 as read (R34). -/
def Result0.word (r : Result0) : Word :=
  0#10 ++ r.rowSel ++ 0#6 ++ BitVec.ofBool r.neg ++ BitVec.ofBool r.suspiciousId ++ r.reason.code ++ 0#2 ++
    r.outcome.code

/-- RESULT1 as read (R35). -/
def Result1.word (r : Result1) : Word := r.tempTenths ++ 0#3 ++ r.channel ++ r.deviceId

/-- FRAMEw[8b+7 : 8b] = Frame[4w+b], and bytes past the Frame are 0 (R36, R67). -/
def frameWord (F : Frame) (w : Nat) : Word :=
  F.byte (4 * w + 3) ++ F.byte (4 * w + 2) ++ F.byte (4 * w + 1) ++ F.byte (4 * w)

/-- SLOT_KEY[k] as read (R39). -/
def Slot.keyWord (x : Slot) : Word :=
  0#11 ++ x.ch ++ x.id ++ 0#6 ++ BitVec.ofBool x.tracked ++ BitVec.ofBool x.used

/-- SLOT_TEMP[k] = sext_32(LAST) (R40). -/
def Slot.tempWord (x : Slot) : Word := x.last.signExtend 32

end Sys2Proof.Machine
end

