-- ==== Sys2Proof/Machine/Ops.lean ====
section
/-!
DEFINITION. The shared operations over the state: raising an interface error (the block's only reaction to misuse; it has
no trap entry and no trap return, spec/60_exceptions.md R250 to R255), issuing and completing a command (spec/44_commands.md R220, R221), writing the results
(R226), emptying the table (R227), the writable registers, and the reset input (spec/70_reset_and_hazards.md R280, R281).
-/

namespace Sys2Proof.Machine

/-- The three sticky interface errors (R250 to R252). -/
inductive BusError where
  | illegal
  | busy
  | access
  deriving DecidableEq, Repr

/-- `raise <Error>`: set the sticky STATUS bit of that name, and nothing else (R10, R250 to R253). -/
def raise (e : BusError) (s : State) : State :=
  { s with
    errIllegal := s.errIllegal || e == .illegal
    errBusy := s.errBusy || e == .busy
    errAccess := s.errAccess || e == .access }

/-- Acceptance of a command (R220): it is pending, BUSY = 1, DONE = 0, and its completion step is placed by a
free value. -/
def issue (i : Instr) (s : State) : State :=
  { s with
    pending := some i
    done := false
    wait := Config.completionDelay s.draws
    draws := s.draws + 1 }

/-- The end of a completion step (R221): nothing is pending, BUSY = 0, DONE = 1. -/
def complete (s : State) : State := { s with pending := none, done := true, wait := 0 }

/-- The reading an accepted frame gives (R150, R177, R226). -/
structure Fields where
  ch : BitVec 5
  id : Byte
  /-- tenths of °C, exact -/
  t : Int
  neg : Bool
  susp : Bool
  deriving DecidableEq, Repr

/-- finish(class, reason, r, F, reading): write RESULT0, RESULT1 and FRAME0..3 as one unit (R226). `F` is empty where
the rule passes none, and packs to zeros, so NO_CANDIDATE leaves FRAME0..3 = 0. -/
def finish (cls : OutcomeClass) (reason : Reason) (r : Nat) (F : Frame) (reading : Option Fields) (s : State) :
    State :=
  { s with
    result0 :=
      { outcome := cls
        reason := reason
        suspiciousId := match reading with
          | some x => x.susp
          | none => false
        neg := match reading with
          | some x => x.neg
          | none => false
        rowSel := if reason = .noRow then 0#6 else BitVec.ofNat 6 r }
    result1 := match reading with
      | some x => { deviceId := x.id, channel := x.ch, tempTenths := BitVec.ofInt 16 x.t }
      | none => Result1.zero
    frame0 := if cls = .noCandidate then 0#32 else frameWord F 0
    frame1 := if cls = .noCandidate then 0#32 else frameWord F 1
    frame2 := if cls = .noCandidate then 0#32 else frameWord F 2
    frame3 := if cls = .noCandidate then 0#32 else frameWord F 3 }

/-- ClearTable(): every slot free, TABLE_COUNT = 0 (R227). -/
def freeTable (s : State) : State :=
  { s with slots := s.slots.map fun _ => Slot.free, tableCount := 0#8 }

/-- Write slot `k` of the device table (R194 to R196). -/
def setSlot (k : Nat) (x : Slot) (s : State) : State := { s with slots := s.slots.set k x }

/-- A write to NROWS with BUSY = 0: all 32 bits are compared with N_ROWS (R30). -/
def writeNrows (v : Word) (s : State) : State :=
  if v.toNat ≤ s.param.nRows then { s with nrows := v.setWidth 7 } else raise .access s

/-- A write to ROW_LEN[r] with BUSY = 0: bits [31:16] are ignored (R32). -/
def writeRowLen (r : Nat) (v : Word) (s : State) : State :=
  { s with rows := s.rows.modify r fun row => { row with len := v.setWidth 16 } }

/-- A write to ROW_DATA[r][w] with BUSY = 0 (R33). -/
def writeRowData (r w : Nat) (v : Word) (s : State) : State :=
  { s with rows := s.rows.modify r fun row => { row with data := row.data.set w v } }

/-- The reset input (R280, R281): every piece of the block's state takes its reset value and a pending command is
abandoned. PARAM keeps its value, ROW_DATA is drawn afresh, and the host, which is another agent, keeps its own. -/
def resetBlock (s : State) : State :=
  { State.resetOf s.param s.draws with host := s.host, replies := s.replies }

/-- One host event passes: it is taken off the host's list and counts against the pending command's delay. -/
def passEvent (rest : List HostOp) (s : State) : State := { s with host := rest, wait := s.wait - 1 }

/-- What a read hands to the host. -/
def reply (v : Word) (s : State) : State := { s with replies := v :: s.replies }

end Sys2Proof.Machine
end

