-- ==== Sys2Proof/Machine/LineDecoder.lean ====
section
/-!
DEFINITION. Components 1 and 2: the pre-decode checks and the Manchester line decoder (spec/40_line_decoder.md R122 to R129), and the line
coding the other way, which says what a transmitter sends (spec/30_encoding.md R105).
-/

namespace Sys2Proof.Machine

/-- PreambleOK(r): raw bytes 0, 1 and 2, before inversion, are 0xAA (R122). -/
def preambleOK (row : Row) : Bool := (List.range preRawBytes).all fun j => rowByte row j == preambleRaw

/-- SentinelOK(r): raw byte 27 is 0x69 (R123). -/
def sentinelOK (row : Row) : Bool := rowByte row lastRawIndex == sentinelRaw

/-- Invert(r): I[k] = 1 - RowBit(r, k) for k = 0..223; row memory is not written (R125, R132). -/
def invert (row : Row) : List Bool := (List.range (16 * frameBytes)).map fun k => !rowBit row k

/-- The decoded bits from pair `i` on, at most `n` of them: low-then-high is 1, high-then-low is 0, and the first
pair that is neither ends the decoding (R126, R127). -/
def manchesterBits (I : List Bool) (start : Nat) : (n i : Nat) → List Bool
  | 0, _ => []
  | n + 1, i =>
    match I.getD (start + 2 * i) false, I.getD (start + 2 * i + 1) false with
    | false, true => true :: manchesterBits I start n (i + 1)
    | true, false => false :: manchesterBits I start n (i + 1)
    | false, false => []
    | true, true => []

/-- Manchester(I, start, nbytes): decoded bit i goes to D[i >> 3][7 - (i mod 8)], and bits never decoded stay 0 (R126, R127). -/
def manchester (I : List Bool) (start nbytes : Nat) : Frame :=
  let bits := manchesterBits I start (8 * nbytes) 0
  (List.range nbytes).map fun n => byteOfBits fun m => bits.getD (8 * n + (7 - m)) false

/-- Reverse the bits of one byte. -/
def reflectByte (b : Byte) : Byte := byteOfBits fun m => b.getLsbD (7 - m)

/-- Reflect(D, nbytes) (R128). -/
def reflect (D : Frame) (nbytes : Nat) : Frame := (List.range nbytes).map fun n => reflectByte (D.byte n)

/-- LineDecode(r) = Reflect(Manchester(Invert(r), 0, 14), 14) (R129). -/
def lineDecode (row : Row) : Frame :=
  reflect (manchester (invert row) manchStart frameBytes) frameBytes

/-- The inverted pair at decoded position `i` is valid: its two halves differ (R127). -/
def pairValid (row : Row) (i : Nat) : Bool := rowBit row (2 * i) != rowBit row (2 * i + 1)

/-- The raw byte that carries nibble (b0, b1, b2, b3): b0, ¬b0, b1, ¬b1, b2, ¬b2, b3, ¬b3 from MSB to LSB (R105). -/
def rawOfNibble (x : BitVec 4) : Byte :=
  byteOfBits fun m => if m % 2 = 1 then x.getLsbD (3 - m / 2) else !x.getLsbD (3 - m / 2)

/-- Raw byte 2n carries the low nibble of Frame[n], raw byte 2n+1 the high nibble (R105). -/
def rawOfFrame (F : Frame) (j : Nat) : Byte :=
  rawOfNibble (if j % 2 = 0 then F.lo (j / 2) else F.hi (j / 2))

/-- A 227-bit row that carries the Frame `F` in raw bytes 0 to 27; raw bytes 28 to 31 are `tail`. -/
def rowOfFrame (F : Frame) (tail : Word) : Row where
  len := BitVec.ofNat 16 rowBits
  data := ((List.range 7).map fun w =>
    rawOfFrame F (4 * w + 3) ++ rawOfFrame F (4 * w + 2) ++ rawOfFrame F (4 * w + 1) ++ rawOfFrame F (4 * w)) ++
      [tail]

end Sys2Proof.Machine
end

