-- ==== Sys2Proof/Machine/Extractor.lean ====
section
/-!
DEFINITION. Component 4: the field extractor, a pure function of the Frame (spec/42_field_extractor.md R170 to R177).
-/

namespace Sys2Proof.Machine

/-- ch = zext_5(F[5] >> 4) + 1 (R171). -/
def channelOf (F : Frame) : BitVec 5 := (F.hi 5).setWidth 5 + 1#5

/-- id = F[6] (R172). -/
def deviceIdOf (F : Frame) : Byte := F.byte 6

/-- The tens digit F[8][7:4] (R173). -/
def tensOf (F : Frame) : Nat := (F.hi 8).toNat

/-- The ones digit F[8][3:0] (R173). -/
def onesOf (F : Frame) : Nat := (F.lo 8).toNat

/-- The decimal digit F[7][7:4] (R173). -/
def decOf (F : Frame) : Nat := (F.hi 7).toNat

/-- mag = tens * 100 + ones * 10 + dec, in tenths (R174). -/
def magnitudeOf (F : Frame) : Nat := tensOf F * 100 + onesOf F * 10 + decOf F

/-- neg = F[9][3] (R175). -/
def negOf (F : Frame) : Bool := (F.byte 9).getLsbD signBit

/-- t = neg ? 0 - mag : mag, exact; negative zero is 0 (R175, R176). -/
def tempOf (F : Frame) : Int := if negOf F then -(magnitudeOf F : Int) else (magnitudeOf F : Int)

/-- Check 5, which never rejects: id is 0x00 or 0xFF (R155). -/
def suspiciousId (id : Byte) : Bool := id == 0x00#8 || id == 0xFF#8

/-- Extract(F), with the flag of check 5 beside it (R155, R177). -/
def extract (F : Frame) : Fields where
  ch := channelOf F
  id := deviceIdOf F
  t := tempOf F
  neg := negOf F
  susp := suspiciousId (deviceIdOf F)

end Sys2Proof.Machine
end

