-- ==== Sys2Proof/Machine/Validator.lean ====
section
/-!
DEFINITION. Component 3: the frame validator; the first failing check decides the reason (spec/41_frame_validator.md R150 to R157).
-/

namespace Sys2Proof.Machine

/-- Check 1 (R151). -/
def trailerOK (F : Frame) : Bool := F.byte 13 == trailer

/-- Check 2, which no 4-bit nibble fails and which is kept (R152, R157). -/
def channelOK (F : Frame) : Bool := decide (chMin ≤ (F.hi 5).toNat + 1) && decide ((F.hi 5).toNat + 1 ≤ chMax)

/-- Check 3 (R153). -/
def bcdOK (F : Frame) : Bool :=
  decide (decOf F ≤ bcdMax) && decide (tensOf F ≤ bcdMax) && decide (onesOf F ≤ bcdMax)

/-- Check 4 (R154). -/
def rangeOK (t : Int) : Bool := decide (tempMin ≤ t) && decide (t ≤ tempMax)

/-- Validate(F): checks 1 to 3, extraction, check 4, and the flag of check 5 (R150). -/
def validate (F : Frame) : Except Reason Fields :=
  if !trailerOK F then .error .trailer
  else if !channelOK F then .error .channel
  else if !bcdOK F then .error .bcd
  else if !rangeOK (extract F).t then .error .tempRange
  else .ok (extract F)

end Sys2Proof.Machine
end

