-- ==== Sys2Proof/Machine/Filter.lean ====
section
/-!
DEFINITION. Component 5: the device-state filter, one atomic lookup and update (spec/43_device_filter.md R190 to R201).
-/

namespace Sys2Proof.Machine

/-- A USED slot that holds the key (R190, R191). -/
def Slot.holds (x : Slot) (id : Byte) (ch : BitVec 5) : Bool := x.used && x.id == id && x.ch == ch

/-- The linear scan, ascending, for the key (R191). -/
def lookup (s : State) (id : Byte) (ch : BitVec 5) : Option Nat := s.slots.findIdx? fun x => x.holds id ch

/-- The first free slot, ascending (R191, R196). -/
def firstFree (s : State) : Option Nat := s.slots.findIdx? fun x => !x.used

/-- delta = |t - L|, exact on integers (R192). -/
def deltaOf (t : Int) (last : BitVec 16) : Nat := (t - last.toInt).natAbs

/-- Slot[k]. -/
def State.slotAt (s : State) (k : Nat) : Slot := s.slots.getD k Slot.free

/-- The slot R196 writes for an unseen key. -/
def freshSlot (id : Byte) (ch : BitVec 5) (t : Int) : Slot := ⟨true, true, id, ch, BitVec.ofInt 16 t⟩

/-- The found-key half of Filter: the delta comparator for a tracked slot (R192 to R194), no comparison for one that is
not yet tracked (R195). `none` is ACCEPT. -/
def filterFound (k : Nat) (t : Int) (s : State) : Option Reason × State :=
  let x := s.slotAt k
  if x.tracked then
    if deltaMax < deltaOf t x.last then (some .delta, s)
    else (none, setSlot k { x with last := BitVec.ofInt 16 t } s)
  else (none, setSlot k { x with tracked := true, last := BitVec.ofInt 16 t } s)

/-- The unseen-key half of Filter: insert at the first free slot (R196), or reject a full table (R197). -/
def filterUnseen (id : Byte) (ch : BitVec 5) (t : Int) (s : State) : Option Reason × State :=
  match firstFree s with
  | some f => (none, { setSlot f (freshSlot id ch t) s with tableCount := s.tableCount + 1#8 })
  | none => (some .tableFull, s)

/-- Filter(id, ch, t): the rejection reason, or `none` for ACCEPT, and the state with the table as it then stands (R191). -/
def filter (id : Byte) (ch : BitVec 5) (t : Int) (s : State) : Option Reason × State :=
  match lookup s id ch with
  | some k => filterFound k t s
  | none => filterUnseen id ch t s

/-- The slot the filter may write for a key: the one that holds it, else the first free one, else none (R191). -/
def filterSlot (s : State) (id : Byte) (ch : BitVec 5) : Option Nat :=
  match lookup s id ch with
  | some k => some k
  | none => firstFree s

end Sys2Proof.Machine
end

