-- ==== Sys2Proof/Machine/Commands.lean ====
section
/-!
DEFINITION. The meaning of each command: its completion step (spec/44_commands.md R221 to R227).
-/

namespace Sys2Proof.Machine

/-- DECODE from the canonical Frame on: validate, then filter, then write the results (R224). -/
def decodeFrame (r : Nat) (F : Frame) (s : State) : State :=
  match validate F with
  | .error reason => finish .sanityFailure reason r F none s
  | .ok x =>
    match filter x.id x.ch x.t s with
    | (some reason, s') => finish .sanityFailure reason r F none s'
    | (none, s') => finish .accepted .none r F (some x) s'

/-- DECODE of the row the locator selected: pre-checks in order, then line decoding; no later row is tried (R121, R124, R224). -/
def decodeRow (r : Nat) (row : Row) (s : State) : State :=
  if !preambleOK row then finish .noCandidate .preamble r [] none s
  else if !sentinelOK row then finish .noCandidate .sentinel r [] none s
  else decodeFrame r (lineDecode row) s

/-- Decode() (R224). -/
def decodeEffect (s : State) : State :=
  match locate s with
  | none => finish .noCandidate .noRow 0 [] none s
  | some r => decodeRow r (s.rowAt r) s

/-- NOP: nothing besides BUSY and DONE (R222). -/
def execNop (s : State) : Host.Outcome State Fault Refusal := .next (complete s)

/-- DECODE (R223 to R226). -/
def execDecode (s : State) : Host.Outcome State Fault Refusal := .next (complete (decodeEffect s))

/-- CLEAR_TABLE (R227). -/
def execClearTable (s : State) : Host.Outcome State Fault Refusal := .next (complete (freeTable s))

end Sys2Proof.Machine
end

