-- ==== Sys2Proof/Machine/Bus.lean ====
section
/-!
DEFINITION. The host bus: the address map (spec/20_memory.md R77), reads and writes with their error rules (R62 to R66, R70, R75; spec/60_exceptions.md R257),
the host's events (R61, R72), and whose turn it is (spec/44_commands.md R221).
-/

namespace Sys2Proof.Machine

/-- A register of the window (R77). -/
inductive Reg where
  | param
  | cmd
  | status
  | result0
  | result1
  | nrows
  | tableCount
  | frame (w : Nat)
  | slotKey (k : Nat)
  | slotTemp (k : Nat)
  | rowLen (r : Nat)
  | rowData (r w : Nat)
  deriving DecidableEq, Repr

/-- The offset of a register (R77). -/
def Reg.offset : Reg → Nat
  | .param => 0x000
  | .cmd => 0x004
  | .status => 0x008
  | .result0 => 0x00C
  | .result1 => 0x010
  | .nrows => 0x014
  | .tableCount => 0x018
  | .frame w => 0x020 + 4 * w
  | .slotKey k => 0x800 + 8 * k
  | .slotTemp k => 0x804 + 8 * k
  | .rowLen r => 0x1000 + 0x40 * r
  | .rowData r w => 0x1020 + 0x40 * r + 4 * w

/-- The registers an instance has (R77). -/
def Reg.mapped (p : Params) : Reg → Bool
  | .frame w => decide (w < 4)
  | .slotKey k => decide (k < p.nDev)
  | .slotTemp k => decide (k < p.nDev)
  | .rowLen r => decide (r < p.nRows)
  | .rowData r w => decide (r < p.nRows) && decide (w < 8)
  | .param | .cmd | .status | .result0 | .result1 | .nrows | .tableCount => true

/-- The slot word at byte `d` of the slot area (R77). -/
def slotRegAt (d : Nat) : Option Reg :=
  if d % 8 = 0 then some (.slotKey (d / 8)) else if d % 8 = 4 then some (.slotTemp (d / 8)) else none

/-- The row word at byte `d` of the row area; bytes 4 to 31 of a row slot are reserved (R77). -/
def rowRegAt (d : Nat) : Option Reg :=
  if d % 0x40 = 0 then some (.rowLen (d / 0x40))
  else if 0x20 ≤ d % 0x40 ∧ d % 4 = 0 then some (.rowData (d / 0x40) ((d % 0x40 - 0x20) / 4))
  else none

/-- The register at an offset, or `none` where the offset is not mapped (R64, R77). -/
def regAt (p : Params) (off : Nat) : Option Reg :=
  if off = 0x000 then some .param
  else if off = 0x004 then some .cmd
  else if off = 0x008 then some .status
  else if off = 0x00C then some .result0
  else if off = 0x010 then some .result1
  else if off = 0x014 then some .nrows
  else if off = 0x018 then some .tableCount
  else if 0x020 ≤ off ∧ off < 0x030 then if off % 4 = 0 then some (.frame ((off - 0x020) / 4)) else none
  else if 0x800 ≤ off ∧ off < 0x800 + 8 * p.nDev then slotRegAt (off - 0x800)
  else if 0x1000 ≤ off ∧ off < 0x1000 + 0x40 * p.nRows then rowRegAt (off - 0x1000)
  else none

/-- n = 4 and addr mod 4 = 0 (R62, R63). -/
def alignedWord (addr : Offset) (n : Size) : Bool := n == .word && addr.toNat % 4 == 0

/-- FRAMEw as stored. -/
def State.frameReg (s : State) : Nat → Word
  | 0 => s.frame0
  | 1 => s.frame1
  | 2 => s.frame2
  | 3 => s.frame3
  | _ => 0#32

/-- The current value of a register; CMD reads 0 (R23, R75). -/
def readReg (s : State) : Reg → Word
  | .param => paramWord s.param
  | .cmd => 0#32
  | .status => statusWord s
  | .result0 => s.result0.word
  | .result1 => s.result1.word
  | .nrows => s.nrows.setWidth 32
  | .tableCount => s.tableCount.setWidth 32
  | .frame w => s.frameReg w
  | .slotKey k => (s.slotAt k).keyWord
  | .slotTemp k => (s.slotAt k).tempWord
  | .rowLen r => (s.rowAt r).len.setWidth 32
  | .rowData r w => (s.rowAt r).data.getD w 0#32

/-- A write to CMD with BUSY = 0: issue the command, or raise ERR_ILLEGAL and issue nothing (R92, R220, R250). -/
def writeCmd (v : Word) (s : State) : State :=
  match decodeWord v with
  | .ok i => issue i s
  | .error _ => raise .illegal s

/-- A legal write with BUSY = 0 to a register of the map; a read-only register raises ERR_ACCESS (R65). -/
def writeReg (v : Word) (s : State) : Reg → State
  | .cmd => writeCmd v s
  | .status => writeStatus v s
  | .nrows => writeNrows v s
  | .rowLen r => writeRowLen r v s
  | .rowData r w => writeRowData r w v s
  | .param | .result0 | .result1 | .tableCount | .frame _ | .slotKey _ | .slotTemp _ => raise .access s

/-- MemRead(addr, n): a legal read has no side effect, any other returns 0 and raises ERR_ACCESS, whatever BUSY is
(R63, R64, R70). -/
def memRead (addr : Offset) (n : Size) (s : State) : Word × State :=
  if alignedWord addr n then
    match regAt s.param addr.toNat with
    | some r => (readReg s r, s)
    | none => (0#32, raise .access s)
  else (0#32, raise .access s)

/-- MemWrite(addr, n, v), decided in the order of R257: size and alignment, then BUSY, then the target (R63 to R66). -/
def memWrite (addr : Offset) (n : Size) (v : Word) (s : State) : State :=
  if alignedWord addr n then
    if s.busy then raise .busy s
    else
      match regAt s.param addr.toNat with
      | some r => writeReg v s r
      | none => raise .access s
  else raise .access s

/-- One host event (R61). A poll that reads BUSY = 1 comes again (R101). -/
def hostEvent (op : HostOp) (rest : List HostOp) (s : State) : State :=
  match op with
  | .read addr n => reply (memRead addr n (passEvent rest s)).1 (memRead addr n (passEvent rest s)).2
  | .write addr n v => memWrite addr n v (passEvent rest s)
  | .poll => reply (statusWord s) (passEvent (if s.busy then .poll :: rest else rest) s)
  | .reset => resetBlock (passEvent rest s)

/-- The host's turn: its oldest event, and nothing where it issues none (R264: state survives). -/
def hostTurn (s : State) : State :=
  match s.host with
  | [] => s
  | op :: rest => hostEvent op rest s

/-- The command whose completion step comes next: one is pending, and its delay has passed or the host issues
nothing more (R221). -/
def engineTurn (s : State) : Option Instr :=
  match s.pending with
  | some i => if s.wait = 0 ∨ s.host = [] then some i else none
  | none => none

/-- A command word in the place from which the very next step takes it: a legal one is the pending command and the
engine is next, an illegal one is the host's next write to CMD. -/
def placeWord (s : State) (nbits w : Nat) : State :=
  match decodeTableWord nbits w with
  | some i => { s with pending := some i, done := false, wait := 0 }
  | none =>
    { s with
      pending := none
      wait := 0
      host := .write (BitVec.ofNat 13 Reg.cmd.offset) .word (BitVec.ofNat 32 w) :: s.host }

/-- A platform address inside the block's window, as an offset from BASE (R60, R77); others do not reach the block. -/
def offsetOfPlatform (a : Nat) : Option Offset :=
  if Config.base ≤ a ∧ a < Config.base + 0x2000 then some (BitVec.ofNat 13 (a - Config.base)) else none

end Sys2Proof.Machine
end

