-- ==== Sys2Proof/Machine/Step.lean ====
section
/-!
DEFINITION. One atomic event: the pending command's completion step, or else one host event (spec/44_commands.md R221; spec/20_memory.md R61, R72).
-/

namespace Sys2Proof.Machine

/-- One step of the machine. -/
def step (s : State) : Host.Outcome State Fault Refusal :=
  match engineTurn s with
  | some i => exec i s
  | none => .next (hostTurn s)

/-- `s` with the command word `w` placed so that the very next step takes it. -/
def State.withFetchWord (s : State) (nbits w : Nat) : State := placeWord s nbits w

end Sys2Proof.Machine
end

