-- ==== Sys2Proof/Machine/HostProgram.lean ====
section
/-!
DEFINITION. The notation of host programs (spec/30_encoding.md R101, R102): each form is one or more host events.
-/

namespace Sys2Proof.Machine

/-- A line of a host program (R101). -/
inductive HostForm where
  /-- `W <offset>, <data32>` -/
  | write (addr : Offset) (v : Word)
  /-- `R <offset>` -/
  | read (addr : Offset)
  /-- `POLL` -/
  | poll
  /-- `W.<n> <offset>, <data>` -/
  | writeSized (n : Size) (addr : Offset) (v : Word)
  /-- `WROW r, <hex bytes>` -/
  | writeRow (r : Nat) (bytes : List Byte)
  /-- `CMD <mnemonic>` -/
  | cmd (i : Instr)
  deriving DecidableEq, Repr

/-- The row is a slot of the instance and the bytes fit it; the data of a sized write fits its size (R31, R101). -/
def HostForm.wf (p : Params) : HostForm → Bool
  | .writeRow r bytes => decide (r < p.nRows) && decide (bytes.length ≤ 32)
  | .writeSized .byte _ v => decide (v.toNat < 2 ^ 8)
  | .writeSized .half _ v => decide (v.toNat < 2 ^ 16)
  | .writeSized .word _ _ => true
  | .write _ _ | .read _ | .poll | .cmd _ => true

/-- Word `w` of a byte list, little-endian, missing bytes 0 (R67, R101). -/
def packWord (bytes : List Byte) (w : Nat) : Word := frameWord bytes w

/-- The (kind, offset, size, data) tuples of a form (R101). -/
def HostForm.expand : HostForm → List HostOp
  | .write addr v => [.write addr .word v]
  | .read addr => [.read addr .word]
  | .poll => [.poll]
  | .writeSized n addr v => [.write addr n v]
  | .writeRow r bytes =>
    (List.range 8).map fun w => .write (BitVec.ofNat 13 (Reg.rowData r w).offset) .word (packWord bytes w)
  | .cmd i => [.write (BitVec.ofNat 13 Reg.cmd.offset) .word (encode i)]

/-- The host events of a whole program. -/
def expandAll (prog : List HostForm) : List HostOp := prog.flatMap HostForm.expand

end Sys2Proof.Machine
end

