-- ==== Sys2Proof/Machine/Reading.lean ====
section
/-!
DEFINITION. What the host makes of the result registers: the Reading (spec/44_commands.md R228) and the log severity (spec/60_exceptions.md R256).
Both are views; the block stores neither.
-/

namespace Sys2Proof.Machine

/-- The Reading in its published order {model, id, channel, temperature_C}, the temperature in exact tenths (R228, R11). -/
structure Reading where
  model : String
  id : Nat
  channel : Nat
  temperatureTenths : Int
  deriving DecidableEq, Repr

/-- RESULT1 holds a Reading only when OUTCOME = ACCEPTED (R226, R228). -/
def readingOf (s : State) : Option Reading :=
  if s.result0.outcome = .accepted then
    some ⟨Config.modelName, s.result1.deviceId.toNat, s.result1.channel.toNat, s.result1.tempTenths.toInt⟩
  else none

/-- The two severities the source names (R256). -/
inductive Severity where
  | low
  | elevated
  deriving DecidableEq, Repr

/-- The severity the source gives an outcome class; it gives none for an acceptance (R256). -/
def severityOf : OutcomeClass → Option Severity
  | .noCandidate => some .low
  | .sanityFailure => some .elevated
  | .none | .accepted => none

end Sys2Proof.Machine
end

