-- ==== Sys2Proof/Safety.lean ====
section
/-!
DEFINITION. What counts as a good state and a safe run: the three invariants of the device table (spec/10_state.md R41), the shape of row memory
(R31), the result registers' coherence (R34 to R36), BUSY against DONE (R25), and a run that never stops (spec/60_exceptions.md R253, R255).
-/

namespace Sys2Proof.Machine

/-- The parameters are in the ranges of R8. -/
def Params.ok (p : Params) : Bool :=
  decide (1 ≤ p.nDev) && decide (p.nDev ≤ 128) && decide (1 ≤ p.nRows) && decide (p.nRows ≤ 64)

/-- What R38 says of one slot: a free slot has all fields 0; a used one is tracked (R41), its channel lies in 1..16 and its
temperature in -400..600 tenths (R99, R100). -/
def Slot.ok (x : Slot) : Bool :=
  if x.used then
    x.tracked && decide (1 ≤ x.ch.toNat) && decide (x.ch.toNat ≤ 16) && rangeOK x.last.toInt
  else x == Slot.free

/-- The invariants of the device table. -/
structure TableInv (s : State) : Prop where
  /-- the table has N_DEV slots (R38) -/
  size : s.slots.length = s.param.nDev
  /-- Capacity: TABLE_COUNT ≤ N_DEV (R41) -/
  capacity : s.tableCount.toNat ≤ s.param.nDev
  /-- Contiguity: the USED slots are exactly Slot[0..TABLE_COUNT-1] (R41) -/
  contiguous : ∀ k, k < s.param.nDev → ((s.slotAt k).used = true ↔ k < s.tableCount.toNat)
  /-- Uniqueness: no two USED slots have the same (ID, CH) (R41) -/
  unique : ∀ j k, j < s.param.nDev → k < s.param.nDev → (s.slotAt j).used = true → (s.slotAt k).used = true →
    (s.slotAt j).id = (s.slotAt k).id → (s.slotAt j).ch = (s.slotAt k).ch → j = k
  /-- every slot is as R38 and R41 say -/
  slotOk : ∀ k, k < s.param.nDev → (s.slotAt k).ok = true

/-- The coherence of the result registers. -/
structure ResultInv (s : State) : Prop where
  /-- REASON belongs to OUTCOME; it is 0 when OUTCOME is NONE or ACCEPTED (R34, R98) -/
  reason : s.result0.reason.rejectClass =
    if s.result0.outcome = .none ∨ s.result0.outcome = .accepted then none else some s.result0.outcome
  /-- RESULT1, SUSPICIOUS_ID and NEG are 0 unless OUTCOME = ACCEPTED (R34, R226) -/
  noReading : s.result0.outcome ≠ .accepted →
    s.result1 = Result1.zero ∧ s.result0.suspiciousId = false ∧ s.result0.neg = false
  /-- an accepted Reading has a channel in 1..16 and a temperature in -400..600 tenths (R35, R99) -/
  reading : s.result0.outcome = .accepted →
    1 ≤ s.result1.channel.toNat ∧ s.result1.channel.toNat ≤ 16 ∧ rangeOK s.result1.tempTenths.toInt = true
  /-- ROW_SEL is a row slot; it is 0 when REASON = NO_ROW or OUTCOME = NONE (R34) -/
  rowSel : s.result0.rowSel.toNat < s.param.nRows ∧
    (s.result0.reason = .noRow ∨ s.result0.outcome = .none → s.result0.rowSel = 0#6)
  /-- FRAME0..3 are 0 unless a Frame was decoded (R36) -/
  noFrame : s.result0.outcome = .none ∨ s.result0.outcome = .noCandidate →
    s.frame0 = 0#32 ∧ s.frame1 = 0#32 ∧ s.frame2 = 0#32 ∧ s.frame3 = 0#32
  /-- FRAME3[31:16] reads 0 (R36) -/
  frame3High : s.frame3.extractLsb' 16 16 = 0#16

/-- A good state. Every step keeps it, and reset has it. -/
structure Inv (s : State) : Prop where
  params : s.param.ok = true
  /-- row memory has its shape (R31, R33) -/
  rowMemory : RowMemory.wf s.param.nRows s.rows = true
  /-- NROWS ≤ N_ROWS (R30) -/
  nrows : s.nrows.toNat ≤ s.param.nRows
  /-- STATUS shows DONE = 0 while BUSY = 1 (R25, R75) -/
  busyNotDone : s.busy = true → s.done = false
  table : TableInv s
  result : ResultInv s

/-- What DECODE reads is as before: PARAM, NROWS, ROW_LEN, and every raw byte of row memory. -/
def InputsKept (s t : State) : Prop :=
  t.param = s.param ∧ t.nrows = s.nrows ∧ t.rows = s.rows ∧
    ∀ r j, rowByte (t.rowAt r) j = rowByte (s.rowAt r) j

/-- The three sticky error bits are as before. -/
def ErrorsKept (s t : State) : Prop :=
  t.errIllegal = s.errIllegal ∧ t.errBusy = s.errBusy ∧ t.errAccess = s.errAccess

/-- The result registers are as before. -/
def ResultsKept (s t : State) : Prop :=
  t.result0 = s.result0 ∧ t.result1 = s.result1 ∧ t.frame0 = s.frame0 ∧ t.frame1 = s.frame1 ∧
    t.frame2 = s.frame2 ∧ t.frame3 = s.frame3

/-- The device table is as before. -/
def TableKept (s t : State) : Prop := t.slots = s.slots ∧ t.tableCount = s.tableCount

/-- The model's own fields, but for the delay, are as before. -/
def HostKept (s t : State) : Prop := t.host = s.host ∧ t.replies = s.replies ∧ t.draws = s.draws

/-- The state right after a completion step: nothing pending, BUSY = 0, DONE = 1 (R221). -/
def Completed (t : State) : Prop := t.pending = none ∧ t.busy = false ∧ t.done = true ∧ t.wait = 0

/-- DECODE in state `s` selects row `r`, whose pre-checks pass (R120, R122, R123). -/
def ReachesLineDecoder (s : State) (r : Nat) : Prop :=
  locate s = some r ∧ preambleOK (s.rowAt r) = true ∧ sentinelOK (s.rowAt r) = true

/-- DECODE in state `s` selects row `r` and comes to the filter with the fields `x` (R224). -/
def ReachesFilter (s : State) (r : Nat) (x : Fields) : Prop :=
  ReachesLineDecoder s r ∧ validate (lineDecode (s.rowAt r)) = .ok x

/-- Slot `k` is the first that holds the key, as the linear scan finds it (R191). -/
def FirstHolder (s : State) (id : Byte) (ch : BitVec 5) (k : Nat) : Prop :=
  k < s.slots.length ∧ (s.slotAt k).used = true ∧ (s.slotAt k).id = id ∧ (s.slotAt k).ch = ch ∧
    ∀ j < k, ¬((s.slotAt j).used = true ∧ (s.slotAt j).id = id ∧ (s.slotAt j).ch = ch)

/-- No slot holds the key: it is Unseen (R190). -/
def Unseen (s : State) (id : Byte) (ch : BitVec 5) : Prop :=
  ∀ j < s.slots.length, ¬((s.slotAt j).used = true ∧ (s.slotAt j).id = id ∧ (s.slotAt j).ch = ch)

/-- RESULT0, RESULT1 and FRAME0..3 after a rejection with a decoded Frame (R226). -/
def SanityResult (t : State) (reason : Reason) (r : Nat) (F : Frame) : Prop :=
  t.result0 = ⟨.sanityFailure, reason, false, false, BitVec.ofNat 6 r⟩ ∧ t.result1 = Result1.zero ∧
    t.frame0 = frameWord F 0 ∧ t.frame1 = frameWord F 1 ∧ t.frame2 = frameWord F 2 ∧ t.frame3 = frameWord F 3

/-- RESULT0, RESULT1 and FRAME0..3 after NO_CANDIDATE (R226). -/
def NoCandidateResult (t : State) (reason : Reason) (r : Nat) : Prop :=
  t.result0 = ⟨.noCandidate, reason, false, false, BitVec.ofNat 6 r⟩ ∧ t.result1 = Result1.zero ∧
    t.frame0 = 0#32 ∧ t.frame1 = 0#32 ∧ t.frame2 = 0#32 ∧ t.frame3 = 0#32

/-- RESULT0, RESULT1 and FRAME0..3 after an acceptance (R226). -/
def AcceptedResult (t : State) (r : Nat) (F : Frame) (x : Fields) : Prop :=
  t.result0 = ⟨.accepted, .none, x.susp, x.neg, BitVec.ofNat 6 r⟩ ∧
    t.result1 = ⟨x.id, x.ch, BitVec.ofInt 16 x.t⟩ ∧
    t.frame0 = frameWord F 0 ∧ t.frame1 = frameWord F 1 ∧ t.frame2 = frameWord F 2 ∧ t.frame3 = frameWord F 3

/-- A run of `k` steps that does not stop. Every run is one: the block has no trap and no fault (R253, R255). -/
def SafeRun (k : Nat) (s : State) : Prop := ∃ t, Sys2Proof.core.run k s = .next t

end Sys2Proof.Machine
end

