-- ==== Sys2Proof/Certificates/Slice0/Obligations.lean ====
section
/-!
DEFINITION. The statements for the provers. Each docstring names the rules of spec/ it formalises.
`engineTurn s = none` says that the next event is the host's; where a statement places an event at the head of `s.host`
under it, that event is what the step takes. `passEvent rest s` is `s` with that event off the host's list and counted
against the delay: both fields are the model's own (log entries 4 and 5), no register of the block.
-/

open Sys2Proof Sys2Proof.Machine

/-! ## Encoding of commands -/

/-- R91, R92: a word is a command exactly when it equals that command's full word; every other word has a reserved
OP or a RSV bit set. -/
def Obligations.DecoderAcceptsExactlyTheFullWords : Prop :=
  (∀ (w : Word) (i : Instr), decodeWord w = .ok i ↔ w = encode i) ∧
  encode .nop = 0x00000000#32 ∧ encode .decode = 0x00000001#32 ∧ encode .clearTable = 0x00000002#32 ∧
  (∀ w : Word, (∀ i, decodeWord w ≠ .ok i) ↔ (3 ≤ (w.extractLsb' 0 4).toNat ∨ w.extractLsb' 4 28 ≠ 0#28)) ∧
  ∀ (s : State) (w : Word) (rest : List HostOp), engineTurn s = none → s.busy = false →
    s.host = .write 0x004#13 .word w :: rest →
    (3 ≤ (w.extractLsb' 0 4).toNat ∨ w.extractLsb' 4 28 ≠ 0#28) →
    step s = .next { passEvent rest s with errIllegal := true }

/-- Words written out from R91's table decode to their commands, and words R92 calls illegal do not. -/
def Obligations.WrittenOutWordsDecode : Prop :=
  decodeTableWord 32 0b00000000000000000000000000000000 = some .nop ∧
  decodeTableWord 32 0b00000000000000000000000000000001 = some .decode ∧
  decodeTableWord 32 0b00000000000000000000000000000010 = some .clearTable ∧
  decodeTableWord 32 0b00000000000000000000000000000011 = none ∧
  decodeTableWord 32 0b00000000000000000000000000010001 = none

/-- Every command's bytes, in the block's byte order, decode to it and leave the bytes that follow. -/
def Obligations.CommandBytesRoundTrip : Prop :=
  ∀ (i : Instr) (rest : List Byte), i.wellFormed = true ∧
    decodeBytes (bytesOfWord (encode i) ++ rest) = .ok (i, rest) ∧
    ∀ w : Word, bytesOfWord w = bytesOfWord (encode i) → w = encode i

/-! ## Steps -/

/-- The next step is the pending command's completion step exactly when it is the engine's turn, and the host's oldest
event otherwise; and a command word placed for the next step is run by it. The delay and the place of a word are the model's
choice (log entries 4 and 12). -/
def Obligations.StepRunsThePendingCommand : Prop :=
  (∀ (s : State) (i : Instr), s.pending = some i → (s.wait = 0 ∨ s.host = []) → step s = exec i s) ∧
  (∀ s : State, s.pending = none ∨ (s.wait ≠ 0 ∧ s.host ≠ []) → step s = .next (hostTurn s)) ∧
  ∀ (s : State) (w : Word) (i : Instr), decodeWord w = .ok i →
    step (s.withFetchWord 32 w.toNat) = exec i (s.withFetchWord 32 w.toNat) ∧
    (s.withFetchWord 32 w.toNat) = { s with pending := some i, done := false, wait := 0 }

/-- R255, R229: no step stops, so every run of every length goes on. -/
def Obligations.NoRunEverStops : Prop :=
  (∀ s : State, ∃ t, step s = .next t) ∧ ∀ (k : Nat) (s : State), SafeRun k s

/-- R220: what a write to CMD does. The command's delay is a free value (log entry 4), so only that there is one is said of
it. -/
def Obligations.CommandIssueFollowsR220 : Prop :=
  ∀ (s : State) (c : Word) (rest : List HostOp), engineTurn s = none → s.host = .write 0x004#13 .word c :: rest →
    (s.busy = true → step s = .next { passEvent rest s with errBusy := true }) ∧
    (s.busy = false → c ≠ 0x00000000#32 → c ≠ 0x00000001#32 → c ≠ 0x00000002#32 →
      step s = .next { passEvent rest s with errIllegal := true }) ∧
    ∀ i, s.busy = false → c = encode i → ∃ delay, step s = .next { s with
      host := rest, pending := some i, done := false, wait := delay, draws := s.draws + 1 } ∧
      ∀ t, step s = .next t → t.busy = true ∧ (statusWord t).getLsbD 0 = true ∧ (statusWord t).getLsbD 1 = false

/-- R221: completion is one step that ends with nothing pending, BUSY = 0 and DONE = 1; it always comes while the host
resets nothing, over the inputs, results and table as they stand; and BUSY clears whatever the host does, reset included
(R281). That a delay counts the host events before it is the model's choice (log entry 4). -/
def Obligations.PendingCommandAlwaysCompletes : Prop :=
  (∀ (i : Instr) (s : State), ∃ t, exec i s = .next t ∧ Completed t) ∧
  (∀ (s t : State) (i : Instr) (n : Nat) (op : HostOp) (rest : List HostOp), s.pending = some i → s.wait = n + 1 →
    s.host = op :: rest → op ≠ .reset → step s = .next t →
    t.pending = some i ∧ t.wait = n ∧ t.done = s.done ∧ ResultsKept s t ∧ TableKept s t) ∧
  (∀ (s : State) (i : Instr), s.pending = some i → HostOp.reset ∉ s.host →
    ∃ k ≤ s.wait, ∃ u t, Sys2Proof.core.run k s = .next u ∧ u.pending = some i ∧ u.done = s.done ∧
      InputsKept s u ∧ ResultsKept s u ∧ TableKept s u ∧
      step u = exec i u ∧ exec i u = .next t ∧ Sys2Proof.core.run (k + 1) s = .next t ∧ Completed t) ∧
  ∀ (s : State) (i : Instr), s.pending = some i →
    ∃ k ≤ s.wait + 1, ∃ t, Sys2Proof.core.run k s = .next t ∧ t.busy = false

/-! ## The commands -/

/-- R222: NOP. -/
def Obligations.NopChangesOnlyBusyAndDone : Prop :=
  encode .nop = 0x00000000#32 ∧
  (∀ s : State, exec .nop s = .next { s with pending := none, done := true, wait := 0 }) ∧
  (∀ (s : State) (rest : List HostOp), engineTurn s = none → s.busy = false →
    s.host = .write 0x004#13 .word 0x00000000#32 :: rest →
    ∃ t, step s = .next t ∧ t.busy = true ∧ t.done = false ∧ ResultsKept s t ∧ TableKept s t) ∧
  (∀ (s : State) (rest : List HostOp), engineTurn s = none → s.busy = true →
    s.host = .write 0x004#13 .word 0x00000000#32 :: rest →
    step s = .next { passEvent rest s with errBusy := true }) ∧
  ∀ s t : State, s.errIllegal = false → s.errBusy = false → s.errAccess = false → exec .nop s = .next t →
    statusWord t = 0x00000002#32

/-- R227: CLEAR_TABLE. -/
def Obligations.ClearTableFreesEverySlot : Prop :=
  encode .clearTable = 0x00000002#32 ∧
  (∀ s : State, ∃ t, exec .clearTable s = .next t ∧ Completed t ∧
    t.slots.length = s.slots.length ∧ (∀ k, t.slotAt k = ⟨false, false, 0#8, 0#5, 0#16⟩) ∧
    t.tableCount = 0#8 ∧ readReg t .tableCount = 0#32 ∧
    (∀ k, readReg t (.slotKey k) = 0#32 ∧ readReg t (.slotTemp k) = 0#32) ∧
    InputsKept s t ∧ ErrorsKept s t ∧ ResultsKept s t ∧ HostKept s t) ∧
  (∀ s t : State, (∀ x ∈ s.slots, x = Slot.free) → s.tableCount = 0#8 → exec .clearTable s = .next t →
    t = { s with pending := none, done := true, wait := 0 }) ∧
  ∀ (s : State) (rest : List HostOp), engineTurn s = none → s.busy = true →
    s.host = .write 0x004#13 .word 0x00000002#32 :: rest →
    step s = .next { passEvent rest s with errBusy := true }

/-- R229, R254: DECODE completes in every state with exactly one of three classes, its reason belongs to the class, and a
Reading stands only after ACCEPTED. -/
def Obligations.DecodeGivesOneClassifiedOutcome : Prop :=
  ∀ s : State, ∃ t, exec .decode s = .next t ∧ Completed t ∧
    ((t.result0.outcome = .accepted ∧ t.result0.reason = .none) ∨
     (t.result0.outcome = .noCandidate ∧
       (t.result0.reason = .noRow ∨ t.result0.reason = .preamble ∨ t.result0.reason = .sentinel)) ∨
     (t.result0.outcome = .sanityFailure ∧
       (t.result0.reason = .trailer ∨ t.result0.reason = .bcd ∨ t.result0.reason = .tempRange ∨
        t.result0.reason = .delta ∨ t.result0.reason = .tableFull))) ∧
    (t.result0.outcome ≠ .accepted → t.result1 = Result1.zero ∧ readingOf t = none) ∧
    ErrorsKept s t

/-- The frame of DECODE (R132, R223, R194 to R196): inputs, error bits and the host's side are kept; the table is kept unless
the outcome is ACCEPTED, and then the filter's slot alone may change and TABLE_COUNT grows by one exactly for a key that
no slot held. -/
def Obligations.DecodeFrame : Prop :=
  ∀ s t : State, exec .decode s = .next t →
    Completed t ∧ InputsKept s t ∧ ErrorsKept s t ∧ HostKept s t ∧
    (t.result0.outcome ≠ .accepted → TableKept s t) ∧
    t.slots.length = s.slots.length ∧
    (∀ r x, ReachesFilter s r x → ∀ j, filterSlot s x.id x.ch ≠ some j → t.slotAt j = s.slotAt j) ∧
    (t.result0.outcome = .accepted → ∃ r x k, ReachesFilter s r x ∧ filterSlot s x.id x.ch = some k ∧
      k < s.slots.length ∧ (∀ j, j ≠ k → t.slotAt j = s.slotAt j) ∧
      (Unseen s x.id x.ch → t.tableCount = s.tableCount + 1#8) ∧
      (¬Unseen s x.id x.ch → t.tableCount = s.tableCount))

/-! ## Frame locator and pre-checks -/

/-- R120: the first row among 0..NROWS-1 of length 227; without one, NO_CANDIDATE with NO_ROW. -/
def Obligations.LocateSelectsTheFirst227BitRow : Prop :=
  (∀ (s : State) (r : Nat), locate s = some r ↔
    r < s.nrows.toNat ∧ (s.rowAt r).len = 227#16 ∧ ∀ k < r, (s.rowAt k).len ≠ 227#16) ∧
  (∀ s : State, locate s = none ↔ ∀ r < s.nrows.toNat, (s.rowAt r).len ≠ 227#16) ∧
  (∀ s : State, (∀ r < s.nrows.toNat, (s.rowAt r).len ≠ 227#16) →
    ∃ t, exec .decode s = .next t ∧ NoCandidateResult t .noRow 0 ∧ TableKept s t) ∧
  ∀ s u : State, u.nrows = s.nrows → (∀ r, (u.rowAt r).len = (s.rowAt r).len) → locate u = locate s

/-- R121 to R124: the selected row alone is examined, preamble before sentinel, on raw bytes before inversion. -/
def Obligations.PreChecksInOrderWithoutFallback : Prop :=
  ∀ (s : State) (r : Nat), r < s.nrows.toNat → (s.rowAt r).len = 227#16 → (∀ k < r, (s.rowAt k).len ≠ 227#16) →
    (¬(rowByte (s.rowAt r) 0 = 0xAA#8 ∧ rowByte (s.rowAt r) 1 = 0xAA#8 ∧ rowByte (s.rowAt r) 2 = 0xAA#8) →
      ∃ t, exec .decode s = .next t ∧ NoCandidateResult t .preamble r ∧ TableKept s t) ∧
    (rowByte (s.rowAt r) 0 = 0xAA#8 → rowByte (s.rowAt r) 1 = 0xAA#8 → rowByte (s.rowAt r) 2 = 0xAA#8 →
      rowByte (s.rowAt r) 27 ≠ 0x69#8 →
      ∃ t, exec .decode s = .next t ∧ NoCandidateResult t .sentinel r ∧ TableKept s t) ∧
    (rowByte (s.rowAt r) 0 = 0xAA#8 → rowByte (s.rowAt r) 1 = 0xAA#8 → rowByte (s.rowAt r) 2 = 0xAA#8 →
      rowByte (s.rowAt r) 27 = 0x69#8 →
      ∃ t, exec .decode s = .next t ∧ t.result0.outcome ≠ .noCandidate ∧ t.result0.rowSel = BitVec.ofNat 6 r)

/-! ## Manchester line decoder -/

/-- R127, R130: decoded bit 8n + m is the first raw bit of its pair, up to the first invalid pair, and 0 from there on. -/
def Obligations.LineDecodeClosedForm : Prop :=
  (∀ row : Row, (lineDecode row).length = 14) ∧
  (∀ row : Row, (∀ i < 112, rowBit row (2 * i) ≠ rowBit row (2 * i + 1)) →
    ∀ n < 14, ∀ m < 8, ((lineDecode row).byte n).getLsbD m = rowBit row (2 * (8 * n + m))) ∧
  ∀ (row : Row) (p : Nat), p < 112 → rowBit row (2 * p) = rowBit row (2 * p + 1) →
    (∀ i < p, rowBit row (2 * i) ≠ rowBit row (2 * i + 1)) →
    ∀ n < 14, ∀ m < 8, ((lineDecode row).byte n).getLsbD m =
      if 8 * n + m < p then rowBit row (2 * (8 * n + m)) else false

/-- R105: the line coding and the line decoder are inverse to each other: every 14-byte Frame comes back from the row
that carries it, and every row of valid pairs is the one that carries its Frame. -/
def Obligations.LineCodingRoundTrip : Prop :=
  (∀ (F : Frame) (tail : Word), F.length = 14 → lineDecode (rowOfFrame F tail) = F) ∧
  (∀ (F : Frame) (tail : Word) (n : Nat), n < 14 →
    (∀ m < 4, (rowByte (rowOfFrame F tail) (2 * n)).getLsbD (7 - 2 * m) = (F.byte n).getLsbD m ∧
      (rowByte (rowOfFrame F tail) (2 * n)).getLsbD (6 - 2 * m) = !(F.byte n).getLsbD m ∧
      (rowByte (rowOfFrame F tail) (2 * n + 1)).getLsbD (7 - 2 * m) = (F.byte n).getLsbD (4 + m) ∧
      (rowByte (rowOfFrame F tail) (2 * n + 1)).getLsbD (6 - 2 * m) = !(F.byte n).getLsbD (4 + m))) ∧
  (∀ row : Row, (∀ i < 112, rowBit row (2 * i) ≠ rowBit row (2 * i + 1)) →
    ∀ n < 14, rowByte row (2 * n) = rawOfNibble ((lineDecode row).lo n) ∧
      rowByte row (2 * n + 1) = rawOfNibble ((lineDecode row).hi n)) ∧
  rawOfNibble 0xF#4 = 0xAA#8 ∧ rawOfNibble 0x0#4 = 0x55#8 ∧ rawOfNibble 0x5#4 = 0x99#8 ∧ rawOfNibble 0x6#4 = 0x69#8

/-- R131, with R130's premise that the pairs are valid (log entry 9): what passing the pre-checks fixes of the Frame, and that it
fixes nothing else. -/
def Obligations.PreChecksFixTheseFrameBits : Prop :=
  (∀ row : Row, preambleOK row = true → (lineDecode row).byte 0 = 0xFF#8 ∧ (lineDecode row).lo 1 = 0xF#4) ∧
  (∀ row : Row, sentinelOK row = true → (∀ i < 112, rowBit row (2 * i) ≠ rowBit row (2 * i + 1)) →
    (lineDecode row).hi 13 = 0x6#4) ∧
  ∀ F : Frame, F.length = 14 → F.byte 0 = 0xFF#8 → F.lo 1 = 0xF#4 → F.hi 13 = 0x6#4 →
    ∃ row : Row, row.len = 227#16 ∧ preambleOK row = true ∧ sentinelOK row = true ∧ lineDecode row = F

/-- R134: a selected row that passes the pre-checks and holds an invalid pair ends in SANITY_FAILURE, TRAILER. -/
def Obligations.InvalidPairEndsInTrailer : Prop :=
  ∀ (s : State) (r i : Nat), ReachesLineDecoder s r → i < 112 →
    rowBit (s.rowAt r) (2 * i) = rowBit (s.rowAt r) (2 * i + 1) →
    ∃ t, exec .decode s = .next t ∧ SanityResult t .trailer r (lineDecode (s.rowAt r)) ∧ TableKept s t

/-- R133: DECODE depends on raw bits 0 to 223 of the rows only. -/
def Obligations.RawBitsFrom224AreNeverRead : Prop :=
  ∀ (s : State) (m : RowMemory),
    (∀ r, ({ s with rows := m }.rowAt r).len = (s.rowAt r).len) →
    (∀ r, ∀ k < 224, rowBit ({ s with rows := m }.rowAt r) k = rowBit (s.rowAt r) k) →
    ∃ t, exec .decode s = .next t ∧ exec .decode { s with rows := m } = .next { t with rows := m }

/-! ## Validator and extractor -/

/-- R151, R153, R154 in the order of R150: the first failing check decides the reason, and the table is not written. -/
def Obligations.FirstFailingCheckDecidesTheReason : Prop :=
  ∀ (s : State) (r : Nat) (F : Frame), ReachesLineDecoder s r → F = lineDecode (s.rowAt r) →
    (F.byte 13 ≠ 0x65#8 →
      ∃ t, exec .decode s = .next t ∧ SanityResult t .trailer r F ∧ TableKept s t) ∧
    (F.byte 13 = 0x65#8 → 9 < (F.hi 7).toNat ∨ 9 < (F.hi 8).toNat ∨ 9 < (F.lo 8).toNat →
      ∃ t, exec .decode s = .next t ∧ SanityResult t .bcd r F ∧ TableKept s t) ∧
    (F.byte 13 = 0x65#8 → (F.hi 7).toNat ≤ 9 → (F.hi 8).toNat ≤ 9 → (F.lo 8).toNat ≤ 9 →
      (tempOf F < -400 ∨ 600 < tempOf F) →
      ∃ t, exec .decode s = .next t ∧ SanityResult t .tempRange r F ∧ TableKept s t) ∧
    (F.byte 13 = 0x65#8 → (F.hi 7).toNat ≤ 9 → (F.hi 8).toNat ≤ 9 → (F.lo 8).toNat ≤ 9 →
      -400 ≤ tempOf F → tempOf F ≤ 600 →
      ReachesFilter s r ⟨channelOf F, F.byte 6, tempOf F, (F.byte 9).getLsbD 3,
        F.byte 6 == 0x00#8 || F.byte 6 == 0xFF#8⟩)

/-- R152, R157: check 2 passes every Frame, and no step newly gives the reason CHANNEL. -/
def Obligations.ReasonChannelIsUnreachable : Prop :=
  (∀ F : Frame, channelOK F = true ∧ 1 ≤ (F.hi 5).toNat + 1 ∧ (F.hi 5).toNat + 1 ≤ 16) ∧
  ∀ s t : State, step s = .next t → t.result0.reason = .channel → s.result0.reason = .channel

/-- R171, R172, R174, R175, R176, R155: every field of the Reading as arithmetic on the Frame's bytes. -/
def Obligations.ExtractorArithmetic : Prop :=
  ∀ F : Frame,
    (extract F).ch.toNat = (F.byte 5).toNat / 16 + 1 ∧
    (extract F).id = F.byte 6 ∧
    (extract F).susp = decide (F.byte 6 = 0x00#8 ∨ F.byte 6 = 0xFF#8) ∧
    (extract F).neg = decide ((F.byte 9).toNat / 8 % 2 = 1) ∧
    (extract F).t = (if (F.byte 9).toNat / 8 % 2 = 1 then (-1 : Int) else 1) *
      (((F.byte 8).toNat / 16 * 100 + (F.byte 8).toNat % 16 * 10 + (F.byte 7).toNat / 16 : Nat) : Int) ∧
    ((F.byte 8).toNat = 0 → (F.byte 7).toNat / 16 = 0 → (extract F).t = 0) ∧
    ((F.hi 8).toNat ≤ 9 → (F.lo 8).toNat ≤ 9 → (F.hi 7).toNat ≤ 9 →
      -999 ≤ (extract F).t ∧ (extract F).t ≤ 999 ∧ (BitVec.ofInt 16 (extract F).t).toInt = (extract F).t)

/-- R96, R156: two selected rows whose Frames agree on the bits the block reads give the same outcome, reading and table. -/
def Obligations.UnreadFrameBitsDoNotMatter : Prop :=
  ∀ (s : State) (m : RowMemory) (r : Nat) (F G : Frame),
    ReachesLineDecoder s r → ReachesLineDecoder { s with rows := m } r →
    F = lineDecode (s.rowAt r) → G = lineDecode ({ s with rows := m }.rowAt r) →
    F.hi 5 = G.hi 5 → F.byte 6 = G.byte 6 → F.hi 7 = G.hi 7 → F.byte 8 = G.byte 8 →
    (F.byte 9).getLsbD 3 = (G.byte 9).getLsbD 3 → F.byte 13 = G.byte 13 →
    ∃ t u, exec .decode s = .next t ∧ exec .decode { s with rows := m } = .next u ∧
      u.result0 = t.result0 ∧ u.result1 = t.result1 ∧ TableKept t u ∧
      t.frame0 = frameWord F 0 ∧ u.frame0 = frameWord G 0

/-! ## Device-state filter -/

/-- R193: a tracked key with delta > 120 is rejected and the table is not written. -/
def Obligations.DeltaAbove120IsRejected : Prop :=
  ∀ (s : State) (r k : Nat) (x : Fields), ReachesFilter s r x → FirstHolder s x.id x.ch k →
    (s.slotAt k).tracked = true → 120 < (x.t - (s.slotAt k).last.toInt).natAbs →
    ∃ t, exec .decode s = .next t ∧ SanityResult t .delta r (lineDecode (s.rowAt r)) ∧ TableKept s t ∧
      (t.slotAt k).last = (s.slotAt k).last

/-- R194: a tracked key with delta ≤ 120 is accepted, and its slot's LAST alone changes. -/
def Obligations.DeltaUpTo120UpdatesLast : Prop :=
  ∀ (s : State) (r k : Nat) (x : Fields), ReachesFilter s r x → FirstHolder s x.id x.ch k →
    (s.slotAt k).tracked = true → (x.t - (s.slotAt k).last.toInt).natAbs ≤ 120 →
    ∃ t, exec .decode s = .next t ∧ AcceptedResult t r (lineDecode (s.rowAt r)) x ∧
      t.slotAt k = { s.slotAt k with last := BitVec.ofInt 16 x.t } ∧ (t.slotAt k).last.toInt = x.t ∧
      (∀ j, j ≠ k → t.slotAt j = s.slotAt j) ∧ t.tableCount = s.tableCount

/-- R195: a key found but not tracked is accepted without a comparison and becomes tracked. -/
def Obligations.UntrackedKeyBecomesTracked : Prop :=
  ∀ (s : State) (r k : Nat) (x : Fields), ReachesFilter s r x → FirstHolder s x.id x.ch k →
    (s.slotAt k).tracked = false →
    ∃ t, exec .decode s = .next t ∧ AcceptedResult t r (lineDecode (s.rowAt r)) x ∧
      t.slotAt k = { s.slotAt k with tracked := true, last := BitVec.ofInt 16 x.t } ∧
      (t.slotAt k).last.toInt = x.t ∧
      (∀ j, j ≠ k → t.slotAt j = s.slotAt j) ∧ t.tableCount = s.tableCount

/-- R196: an unseen key goes to the first free slot, which is Slot[TABLE_COUNT] where the table invariants hold. -/
def Obligations.UnseenKeyTakesTheFirstFreeSlot : Prop :=
  ∀ (s : State) (r f : Nat) (x : Fields), ReachesFilter s r x → Unseen s x.id x.ch → f < s.slots.length →
    (s.slotAt f).used = false → (∀ j < f, (s.slotAt j).used = true) →
    ∃ t, exec .decode s = .next t ∧ AcceptedResult t r (lineDecode (s.rowAt r)) x ∧
      t.slotAt f = ⟨true, true, x.id, x.ch, BitVec.ofInt 16 x.t⟩ ∧ (t.slotAt f).last.toInt = x.t ∧
      (∀ j, j ≠ f → t.slotAt j = s.slotAt j) ∧ t.tableCount = s.tableCount + 1#8 ∧
      (TableInv s → f = s.tableCount.toNat)

/-- R197: an unseen key with no free slot is rejected and nothing is evicted, while a key already in the full table is
handled by R192 to R195 as ever. -/
def Obligations.FullTableRejectsUnseenKey : Prop :=
  ∀ (s : State) (r : Nat) (x : Fields), ReachesFilter s r x → (∀ j < s.slots.length, (s.slotAt j).used = true) →
    (TableInv s → s.tableCount.toNat = s.param.nDev) ∧
    (Unseen s x.id x.ch →
      ∃ t, exec .decode s = .next t ∧ SanityResult t .tableFull r (lineDecode (s.rowAt r)) ∧ TableKept s t) ∧
    ∀ k, FirstHolder s x.id x.ch k →
      ∃ t, exec .decode s = .next t ∧ t.slots.length = s.slots.length ∧ t.tableCount = s.tableCount ∧
        (∀ j, (t.slotAt j).used = (s.slotAt j).used ∧ (t.slotAt j).id = (s.slotAt j).id ∧
          (t.slotAt j).ch = (s.slotAt j).ch) ∧
        ((s.slotAt k).tracked = false ∨ (x.t - (s.slotAt k).last.toInt).natAbs ≤ 120 →
          AcceptedResult t r (lineDecode (s.rowAt r)) x ∧ (t.slotAt k).tracked = true ∧
            (t.slotAt k).last.toInt = x.t) ∧
        ((s.slotAt k).tracked = true → 120 < (x.t - (s.slotAt k).last.toInt).natAbs →
          SanityResult t .delta r (lineDecode (s.rowAt r)) ∧ TableKept s t)

/-- R199: DECODE for one key neither changes nor depends on the temperature of a slot that holds another key. -/
def Obligations.KeysAreIndependent : Prop :=
  ∀ (s : State) (r k : Nat) (x : Fields) (L : BitVec 16), ReachesFilter s r x → (s.slotAt k).used = true →
    ((s.slotAt k).id ≠ x.id ∨ (s.slotAt k).ch ≠ x.ch) →
    ∃ t, exec .decode s = .next t ∧ t.slotAt k = s.slotAt k ∧
      exec .decode (setSlot k { s.slotAt k with last := L } s) =
        .next (setSlot k { s.slotAt k with last := L } t)

/-- R200, R38: a tracked slot changes only by CLEAR_TABLE, by reset, or by an accepted DECODE of its own key within 120
tenths of LAST, which writes LAST alone. -/
def Obligations.TrackedSlotChangesOnlySo : Prop :=
  ∀ (s t : State) (k : Nat), step s = .next t → (s.slotAt k).used = true → (s.slotAt k).tracked = true →
    t.slotAt k ≠ s.slotAt k →
    (engineTurn s = some .clearTable ∧ t.slotAt k = Slot.free) ∨
    (engineTurn s = none ∧ s.host.head? = some .reset) ∨
    (engineTurn s = some .decode ∧ t.result0.outcome = .accepted ∧
      ∃ r x, ReachesFilter s r x ∧ x.id = (s.slotAt k).id ∧ x.ch = (s.slotAt k).ch ∧
        (x.t - (s.slotAt k).last.toInt).natAbs ≤ 120 ∧
        t.slotAt k = { s.slotAt k with last := BitVec.ofInt 16 x.t })

/-- R201: a rejection before the filter neither reads nor writes the table. -/
def Obligations.EarlierRejectionIgnoresTheTable : Prop :=
  ∀ (s t : State) (slots : List Slot) (count : BitVec 8), exec .decode s = .next t →
    t.result0.reason ≠ .none → t.result0.reason ≠ .delta → t.result0.reason ≠ .tableFull →
    TableKept s t ∧
    exec .decode { s with slots := slots, tableCount := count } =
      .next { t with slots := slots, tableCount := count }

/-- R230: a DECODE that follows an accepted one over identical row memory and table is accepted with identical results, and leaves the table
as it stands; from the very same state it changes nothing at all. -/
def Obligations.AcceptedDecodeIsIdempotent : Prop :=
  ∀ s t : State, exec .decode s = .next t → t.result0.outcome = .accepted →
    exec .decode t = .next t ∧
    ∀ v : State, v.rows = t.rows → v.nrows = t.nrows → v.slots = t.slots → v.tableCount = t.tableCount →
      ∃ u, exec .decode v = .next u ∧ ResultsKept t u ∧ TableKept t u

/-! ## Host bus and registers -/

/-- R77: every register of the map is found at its offset and at no other, and every offset of the window is a
register's or unmapped. -/
def Obligations.AddressMapIsExact : Prop :=
  (∀ p : Params, regAt p 0x000 = some .param ∧ regAt p 0x004 = some .cmd ∧ regAt p 0x008 = some .status ∧
    regAt p 0x00C = some .result0 ∧ regAt p 0x010 = some .result1 ∧ regAt p 0x014 = some .nrows ∧
    regAt p 0x018 = some .tableCount ∧ regAt p 0x01C = none ∧
    (∀ w < 4, regAt p (0x020 + 4 * w) = some (.frame w)) ∧
    (∀ off, 0x030 ≤ off → off < 0x800 → regAt p off = none)) ∧
  (∀ p : Params, p.ok = true →
    (∀ k < 128, ∀ o, regAt p (0x800 + 8 * k) = some o ↔ k < p.nDev ∧ o = .slotKey k) ∧
    (∀ k < 128, ∀ o, regAt p (0x804 + 8 * k) = some o ↔ k < p.nDev ∧ o = .slotTemp k) ∧
    (∀ off, 0xC00 ≤ off → off < 0x1000 → regAt p off = none) ∧
    (∀ r < 64, ∀ o, regAt p (0x1000 + 0x40 * r) = some o ↔ r < p.nRows ∧ o = .rowLen r) ∧
    (∀ r < 64, ∀ w < 7, regAt p (0x1004 + 0x40 * r + 4 * w) = none) ∧
    (∀ r < 64, ∀ w < 8, ∀ o, regAt p (0x1020 + 0x40 * r + 4 * w) = some o ↔ r < p.nRows ∧ o = .rowData r w)) ∧
  ∀ (p : Params) (off : Nat) (o : Reg), p.ok = true → regAt p off = some o →
    o.mapped p = true ∧ o.offset = off ∧ off % 4 = 0 ∧ off < 0x2000

/-- R63 to R66, R257: a write raises the one error of the first case that applies, and drops the data. -/
def Obligations.WriteErrorsFollowThePriority : Prop :=
  ∀ (s : State) (addr : Offset) (n : Size) (v : Word) (rest : List HostOp), engineTurn s = none →
    s.host = .write addr n v :: rest →
    (n ≠ .word ∨ addr.toNat % 4 ≠ 0 → step s = .next { passEvent rest s with errAccess := true }) ∧
    (n = .word → addr.toNat % 4 = 0 → s.busy = true → step s = .next { passEvent rest s with errBusy := true }) ∧
    (n = .word → addr.toNat % 4 = 0 → s.busy = false →
      (∀ o, regAt s.param addr.toNat = some o → o ≠ .cmd ∧ o ≠ .status ∧ o ≠ .nrows ∧
        (∀ r, o ≠ .rowLen r) ∧ ∀ r w, o ≠ .rowData r w) →
      step s = .next { passEvent rest s with errAccess := true }) ∧
    (n = .word → s.busy = false → addr = 0x004#13 → v ≠ 0#32 → v ≠ 1#32 → v ≠ 2#32 →
      step s = .next { passEvent rest s with errIllegal := true }) ∧
    (n = .word → s.busy = false → addr = 0x014#13 → s.param.nRows < v.toNat →
      step s = .next { passEvent rest s with errAccess := true })

/-- R62 to R64, R70, R75: a legal read returns the current value and changes no register, BUSY or not; any other read
returns 0 and raises ERR_ACCESS. The current value of each register is the state's (R22 to R40): STATUS bit by bit, row
data byte by byte, the rest whole. -/
def Obligations.ReadsReturnCurrentValues : Prop :=
  (∀ s : State, (readReg s .status).getLsbD 0 = s.busy ∧ (readReg s .status).getLsbD 1 = s.done ∧
    (readReg s .status).getLsbD 8 = s.errIllegal ∧ (readReg s .status).getLsbD 9 = s.errBusy ∧
    (readReg s .status).getLsbD 10 = s.errAccess ∧ readReg s .status = statusWord s ∧
    readReg s .param = paramWord s.param ∧ readReg s .result0 = s.result0.word ∧ readReg s .result1 = s.result1.word ∧
    readReg s (.frame 0) = s.frame0 ∧ readReg s (.frame 1) = s.frame1 ∧ readReg s (.frame 2) = s.frame2 ∧
    readReg s (.frame 3) = s.frame3 ∧
    (readReg s .nrows).extractLsb' 0 7 = s.nrows ∧ (readReg s .nrows).extractLsb' 7 25 = 0#25 ∧
    (readReg s .tableCount).extractLsb' 0 8 = s.tableCount ∧ (readReg s .tableCount).extractLsb' 8 24 = 0#24) ∧
  (∀ (s : State) (k : Nat), readReg s (.slotKey k) = (s.slotAt k).keyWord ∧
    readReg s (.slotTemp k) = (s.slotAt k).tempWord) ∧
  (∀ (s : State) (r : Nat), (readReg s (.rowLen r)).extractLsb' 0 16 = (s.rowAt r).len ∧
    (readReg s (.rowLen r)).extractLsb' 16 16 = 0#16) ∧
  (∀ (s : State) (r w b : Nat), b < 4 →
    (readReg s (.rowData r w)).extractLsb' (8 * b) 8 = rowByte (s.rowAt r) (4 * w + b)) ∧
  ∀ (s : State) (addr : Offset) (n : Size) (rest : List HostOp), engineTurn s = none →
    s.host = .read addr n :: rest →
    (∀ o, n = .word → addr.toNat % 4 = 0 → regAt s.param addr.toNat = some o →
      step s = .next { passEvent rest s with replies := readReg s o :: s.replies }) ∧
    (n ≠ .word ∨ addr.toNat % 4 ≠ 0 ∨ regAt s.param addr.toNat = none →
      step s = .next { passEvent rest s with replies := 0#32 :: s.replies, errAccess := true }) ∧
    readReg s .cmd = 0#32

/-- R74, R75: while a command stays pending, its inputs, the results and the table stand still. -/
def Obligations.PendingCommandSeesFrozenInputs : Prop :=
  ∀ (s t : State) (i : Instr), s.pending = some i → step s = .next t → t.pending = some i →
    InputsKept s t ∧ ResultsKept s t ∧ TableKept s t ∧ t.done = s.done

/-- R29: a write to STATUS clears exactly the bits among 1, 8, 9, 10 that it writes as 1, and changes nothing else;
while BUSY it is dropped. -/
def Obligations.StatusWriteClearsWrittenOnes : Prop :=
  (∀ s : State, ∀ b < 32, b ≠ 0 → b ≠ 1 → b ≠ 8 → b ≠ 9 → b ≠ 10 → (statusWord s).getLsbD b = false) ∧
  ∀ (s : State) (v : Word) (rest : List HostOp), engineTurn s = none →
    s.host = .write 0x008#13 .word v :: rest →
    (s.busy = true → step s = .next { passEvent rest s with errBusy := true }) ∧
    (s.busy = false → ∃ t, step s = .next t ∧
      (∀ b < 32, (statusWord t).getLsbD b = ((statusWord s).getLsbD b &&
        !(v.getLsbD b && (b == 1 || b == 8 || b == 9 || b == 10)))) ∧
      t.pending = s.pending ∧ InputsKept s t ∧ ResultsKept s t ∧ TableKept s t)

/-- R253: every step goes on; an error bit once set stays set but for a STATUS write of 1 with BUSY = 0 and for reset;
and raising one neither changes BUSY nor aborts a pending command. -/
def Obligations.ErrorBitsAreSticky : Prop :=
  ∀ s : State, ∃ t, step s = .next t ∧
    (s.errIllegal = true → t.errIllegal = false → engineTurn s = none ∧ (s.host.head? = some .reset ∨
      ∃ v, s.host.head? = some (.write 0x008#13 .word v) ∧ v.getLsbD 8 = true ∧ s.busy = false)) ∧
    (s.errBusy = true → t.errBusy = false → engineTurn s = none ∧ (s.host.head? = some .reset ∨
      ∃ v, s.host.head? = some (.write 0x008#13 .word v) ∧ v.getLsbD 9 = true ∧ s.busy = false)) ∧
    (s.errAccess = true → t.errAccess = false → engineTurn s = none ∧ (s.host.head? = some .reset ∨
      ∃ v, s.host.head? = some (.write 0x008#13 .word v) ∧ v.getLsbD 10 = true ∧ s.busy = false)) ∧
    ((s.errIllegal = false ∧ t.errIllegal = true) ∨ (s.errBusy = false ∧ t.errBusy = true) ∨
      (s.errAccess = false ∧ t.errAccess = true) →
      t.pending = s.pending ∧ t.done = s.done ∧ InputsKept s t ∧ ResultsKept s t ∧ TableKept s t)

/-- R30: NROWS takes a value up to N_ROWS, compared over all 32 bits; a larger one is dropped with ERR_ACCESS; bits
[31:7] read 0, the locator scans the rows below NROWS, and reset gives 0. -/
def Obligations.NrowsWriteComparesAllBits : Prop :=
  State.reset.nrows = 0#7 ∧ (∀ s : State, (readReg s .nrows).extractLsb' 7 25 = 0#25) ∧
  (∀ (s : State) (r : Nat), locate s = some r → r < s.nrows.toNat) ∧
  (∀ s t : State, s.param.ok = true → s.nrows.toNat ≤ s.param.nRows → step s = .next t →
    t.nrows.toNat ≤ t.param.nRows) ∧
  ∀ (s : State) (v : Word) (rest : List HostOp), s.param.ok = true → engineTurn s = none → s.busy = false →
    s.host = .write 0x014#13 .word v :: rest →
    (v.toNat ≤ s.param.nRows → ∃ t, step s = .next t ∧ t = { passEvent rest s with nrows := v.setWidth 7 } ∧
      readReg t .nrows = v) ∧
    (s.param.nRows < v.toNat → step s = .next { passEvent rest s with errAccess := true })

/-- R32: ROW_LEN[r] keeps bits [15:0] of the written word and no other row or byte changes. -/
def Obligations.RowLenWriteKeepsLow16Bits : Prop :=
  ∀ (s : State) (r : Nat) (v : Word) (rest : List HostOp), s.param.ok = true →
    RowMemory.wf s.param.nRows s.rows = true → r < s.param.nRows → engineTurn s = none → s.busy = false →
    s.host = .write (BitVec.ofNat 13 (0x1000 + 0x40 * r)) .word v :: rest →
    ∃ t, step s = .next t ∧ readReg t (.rowLen r) = v &&& 0x0000FFFF#32 ∧
      (∀ q, q ≠ r → (t.rowAt q).len = (s.rowAt q).len) ∧
      (∀ q j, rowByte (t.rowAt q) j = rowByte (s.rowAt q) j) ∧
      t = { passEvent rest s with rows := t.rows } ∧ RowMemory.wf s.param.nRows t.rows = true

/-- R33, R67: a write to ROW_DATA[r][w] stores raw bytes 4w to 4w+3 little-endian, and every other raw byte and every length
reads as before. -/
def Obligations.RowDataWriteStoresFourBytes : Prop :=
  ∀ (s : State) (r w : Nat) (v : Word) (rest : List HostOp), s.param.ok = true →
    RowMemory.wf s.param.nRows s.rows = true → r < s.param.nRows → w < 8 → engineTurn s = none → s.busy = false →
    s.host = .write (BitVec.ofNat 13 (0x1020 + 0x40 * r + 4 * w)) .word v :: rest →
    ∃ t, step s = .next t ∧ readReg t (.rowData r w) = v ∧
      (∀ b < 4, rowByte (t.rowAt r) (4 * w + b) = v.extractLsb' (8 * b) 8) ∧
      (∀ q j, ¬(q = r ∧ j / 4 = w) → rowByte (t.rowAt q) j = rowByte (s.rowAt q) j) ∧
      (∀ q, (t.rowAt q).len = (s.rowAt q).len) ∧
      t = { passEvent rest s with rows := t.rows } ∧ RowMemory.wf s.param.nRows t.rows = true

/-- R132: row memory is written only by the host with BUSY = 0, and by reset. -/
def Obligations.OnlyTheHostWritesRowMemory : Prop :=
  ∀ s t : State, step s = .next t → t.rows ≠ s.rows →
    engineTurn s = none ∧ (s.host.head? = some .reset ∨
      ∃ addr v o, s.host.head? = some (.write addr .word v) ∧ s.busy = false ∧
        regAt s.param addr.toNat = some o ∧ ((∃ r, o = .rowLen r) ∨ ∃ r w, o = .rowData r w))

/-- R22: PARAM is {227, N_ROWS, N_DEV}, and no step changes it. -/
def Obligations.ParamNeverChanges : Prop :=
  (∀ s : State, s.param.ok = true → (readReg s .param).extractLsb' 0 8 = BitVec.ofNat 8 s.param.nDev ∧
    (readReg s .param).extractLsb' 8 8 = BitVec.ofNat 8 s.param.nRows ∧
    ((readReg s .param).extractLsb' 0 8).toNat = s.param.nDev ∧
    ((readReg s .param).extractLsb' 8 8).toNat = s.param.nRows ∧
    (readReg s .param).extractLsb' 16 16 = 0x00E3#16) ∧
  (∀ s t : State, step s = .next t → readReg t .param = readReg s .param ∧ t.param = s.param) ∧
  ∀ (s : State) (v : Word) (rest : List HostOp), engineTurn s = none → s.busy = false →
    s.host = .write 0x000#13 .word v :: rest → step s = .next { passEvent rest s with errAccess := true }

/-- R34 to R36, R39, R40, R97, R98: every field of the read-only registers at its bits, every reserved bit 0, and the
codes of the two coded fields. -/
def Obligations.ReadOnlyRegistersHaveTheirFields : Prop :=
  (∀ r : Result0, r.word.extractLsb' 0 2 = r.outcome.code ∧ r.word.extractLsb' 2 2 = 0#2 ∧
    r.word.extractLsb' 4 4 = r.reason.code ∧ r.word.getLsbD 8 = r.suspiciousId ∧ r.word.getLsbD 9 = r.neg ∧
    r.word.extractLsb' 10 6 = 0#6 ∧ r.word.extractLsb' 16 6 = r.rowSel ∧ r.word.extractLsb' 22 10 = 0#10) ∧
  (∀ r : Result1, r.word.extractLsb' 0 8 = r.deviceId ∧ r.word.extractLsb' 8 5 = r.channel ∧
    r.word.extractLsb' 13 3 = 0#3 ∧ r.word.extractLsb' 16 16 = r.tempTenths) ∧
  (∀ (F : Frame) (w b : Nat), b < 4 → wordByte (frameWord F w) b = F.byte (4 * w + b)) ∧
  (∀ F : Frame, F.length = 14 → (frameWord F 3).extractLsb' 16 16 = 0#16) ∧
  (∀ x : Slot, x.keyWord.getLsbD 0 = x.used ∧ x.keyWord.getLsbD 1 = x.tracked ∧ x.keyWord.extractLsb' 2 6 = 0#6 ∧
    x.keyWord.extractLsb' 8 8 = x.id ∧ x.keyWord.extractLsb' 16 5 = x.ch ∧ x.keyWord.extractLsb' 21 11 = 0#11) ∧
  (∀ x : Slot, x.tempWord.toInt = x.last.toInt) ∧
  (OutcomeClass.none.code = 0#2 ∧ OutcomeClass.noCandidate.code = 1#2 ∧ OutcomeClass.sanityFailure.code = 2#2 ∧
    OutcomeClass.accepted.code = 3#2) ∧
  Reason.none.code = 0#4 ∧ Reason.noRow.code = 1#4 ∧ Reason.preamble.code = 2#4 ∧ Reason.sentinel.code = 3#4 ∧
    Reason.trailer.code = 4#4 ∧ Reason.channel.code = 5#4 ∧ Reason.bcd.code = 6#4 ∧ Reason.tempRange.code = 7#4 ∧
    Reason.delta.code = 8#4 ∧ Reason.tableFull.code = 9#4

/-! ## Reset and invariants -/

/-- R280, R281: the reset input gives every register its reset value, keeps PARAM, and abandons a pending command. -/
def Obligations.ResetGivesTheResetValues : Prop :=
  (∀ (s : State) (rest : List HostOp), engineTurn s = none → s.host = .reset :: rest →
    ∃ t, step s = .next t ∧ t.param = s.param ∧ statusWord t = 0#32 ∧ t.busy = false ∧ t.pending = none ∧
      t.nrows = 0#7 ∧ t.rows.length = s.param.nRows ∧ (∀ r, (t.rowAt r).len = 0#16) ∧
      RowMemory.wf s.param.nRows t.rows = true ∧
      t.result0.word = 0#32 ∧ t.result0.outcome = .none ∧ t.result1.word = 0#32 ∧
      t.frame0 = 0#32 ∧ t.frame1 = 0#32 ∧ t.frame2 = 0#32 ∧ t.frame3 = 0#32 ∧
      t.tableCount = 0#8 ∧ t.slots.length = s.param.nDev ∧ (∀ k, t.slotAt k = Slot.free)) ∧
  statusWord State.reset = 0#32 ∧ State.reset.busy = false ∧ State.reset.pending = none ∧ State.reset.nrows = 0#7 ∧
  State.reset.rows.length = State.reset.param.nRows ∧ (∀ r, (State.reset.rowAt r).len = 0#16) ∧
  RowMemory.wf State.reset.param.nRows State.reset.rows = true ∧
  State.reset.result0.word = 0#32 ∧ State.reset.result0.outcome = .none ∧ State.reset.result1.word = 0#32 ∧
  State.reset.frame0 = 0#32 ∧ State.reset.frame1 = 0#32 ∧ State.reset.frame2 = 0#32 ∧ State.reset.frame3 = 0#32 ∧
  State.reset.tableCount = 0#8 ∧ State.reset.slots.length = State.reset.param.nDev ∧
  ∀ k, State.reset.slotAt k = Slot.free

/-- Reset is a good state, whatever the parameters in R8's ranges are. -/
def Obligations.InvAtReset : Prop :=
  Inv State.reset ∧ ∀ (p : Params) (k : Nat), p.ok = true → Inv (State.resetOf p k)

/-- R41 and the coherence rules of R30 to R40: every step keeps a good state good. -/
def Obligations.EveryStepKeepsInv : Prop :=
  ∀ s t : State, Inv s → step s = .next t → Inv t

/-- In every state a run reaches from a good one, TABLE_COUNT is the number of USED slots (R37). -/
def Obligations.TableCountCountsUsedSlots : Prop :=
  ∀ (k : Nat) (s t : State), Inv s → Sys2Proof.core.run k s = .next t →
    t.tableCount.toNat = t.slots.countP (fun x => x.used) ∧ (∀ x ∈ t.slots, x.used = true → x.tracked = true)

/-! ## Host programs and the Reading -/

/-- R101: the eight writes of `WROW r` load the row's 32 raw bytes, missing ones 0, and touch nothing else. -/
def Obligations.WriteRowLoadsTheRow : Prop :=
  ∀ (s : State) (r : Nat) (bytes : List Byte) (rest : List HostOp), Inv s → s.busy = false →
    (HostForm.writeRow r bytes).wf s.param = true → s.host = (HostForm.writeRow r bytes).expand ++ rest →
    ∃ t, Sys2Proof.core.run 8 s = .next t ∧ t.host = rest ∧
      (∀ j < 32, rowByte (t.rowAt r) j = bytes.getD j 0#8) ∧
      (∀ q, q ≠ r → t.rowAt q = s.rowAt q) ∧ (t.rowAt r).len = (s.rowAt r).len ∧
      t.rows.length = s.rows.length ∧ t.param = s.param ∧ t.nrows = s.nrows ∧ t.done = s.done ∧ t.pending = none ∧
      t.replies = s.replies ∧ t.draws = s.draws ∧ ErrorsKept s t ∧ ResultsKept s t ∧ TableKept s t

/-- R101, R73: a poll at the head of the host's list reads STATUS again while BUSY = 1, and after the command has completed it
is done, having read BUSY = 0 last. A poll as one event of that list, and the bound, are the model's choice (log entries
4 and 10). -/
def Obligations.PollEndsWithBusyZero : Prop :=
  (∀ (s : State) (rest : List HostOp), engineTurn s = none → s.host = .poll :: rest → s.busy = true →
    step s = .next { passEvent (.poll :: rest) s with replies := statusWord s :: s.replies }) ∧
  ∀ (s : State) (rest : List HostOp), s.host = .poll :: rest → ∃ k ≤ s.wait + 2, ∃ t v vs,
    Sys2Proof.core.run k s = .next t ∧ t.host = rest ∧ t.busy = false ∧ t.replies = v :: vs ∧
    v = statusWord t ∧ v.getLsbD 0 = false ∧ InputsKept s t ∧ ErrorsKept s t

/-- R60, R77: the 0x2000 platform addresses from BASE on are the window's offsets, in order, and no other address reaches the block. -/
def Obligations.PlatformWindowStartsAtBase : Prop :=
  (∀ off : Offset, offsetOfPlatform (Config.base + off.toNat) = some off) ∧
  ∀ (a : Nat) (off : Offset), offsetOfPlatform a = some off → a = Config.base + off.toNat ∧ off.toNat < 0x2000

/-- R228: after an acceptance the host's Reading is MODEL_NAME with the id, the channel and the exact tenths of the
frame, and after any other outcome there is none. -/
def Obligations.ReadingAfterAcceptance : Prop :=
  ∀ s t : State, exec .decode s = .next t →
    (t.result0.outcome = .accepted → ∃ r x, ReachesFilter s r x ∧
      readingOf t = some ⟨Config.modelName, x.id.toNat, x.ch.toNat, x.t⟩ ∧ -400 ≤ x.t ∧ x.t ≤ 600 ∧
      1 ≤ x.ch.toNat ∧ x.ch.toNat ≤ 16) ∧
    (t.result0.outcome ≠ .accepted → readingOf t = none)
end

