-- ==== Sys2Proof/Laws/State.lean ====
section
/-!
SUPPORT. One lemma per field and per named update of the state, true by definition, so that no proof unfolds an update.
-/

namespace Sys2Proof.Machine

variable (s : State)

/-! ### raise -/

@[simp] theorem raise_param (e : BusError) : (raise e s).param = s.param := rfl
@[simp] theorem raise_done (e : BusError) : (raise e s).done = s.done := rfl
@[simp] theorem raise_errIllegal (e : BusError) : (raise e s).errIllegal = (s.errIllegal || e == .illegal) := rfl
@[simp] theorem raise_errBusy (e : BusError) : (raise e s).errBusy = (s.errBusy || e == .busy) := rfl
@[simp] theorem raise_errAccess (e : BusError) : (raise e s).errAccess = (s.errAccess || e == .access) := rfl
@[simp] theorem raise_pending (e : BusError) : (raise e s).pending = s.pending := rfl
@[simp] theorem raise_nrows (e : BusError) : (raise e s).nrows = s.nrows := rfl
@[simp] theorem raise_rows (e : BusError) : (raise e s).rows = s.rows := rfl
@[simp] theorem raise_result0 (e : BusError) : (raise e s).result0 = s.result0 := rfl
@[simp] theorem raise_result1 (e : BusError) : (raise e s).result1 = s.result1 := rfl
@[simp] theorem raise_frame0 (e : BusError) : (raise e s).frame0 = s.frame0 := rfl
@[simp] theorem raise_frame1 (e : BusError) : (raise e s).frame1 = s.frame1 := rfl
@[simp] theorem raise_frame2 (e : BusError) : (raise e s).frame2 = s.frame2 := rfl
@[simp] theorem raise_frame3 (e : BusError) : (raise e s).frame3 = s.frame3 := rfl
@[simp] theorem raise_tableCount (e : BusError) : (raise e s).tableCount = s.tableCount := rfl
@[simp] theorem raise_slots (e : BusError) : (raise e s).slots = s.slots := rfl
@[simp] theorem raise_host (e : BusError) : (raise e s).host = s.host := rfl
@[simp] theorem raise_replies (e : BusError) : (raise e s).replies = s.replies := rfl
@[simp] theorem raise_wait (e : BusError) : (raise e s).wait = s.wait := rfl
@[simp] theorem raise_draws (e : BusError) : (raise e s).draws = s.draws := rfl

/-! ### issue -/

@[simp] theorem issue_param (i : Instr) : (issue i s).param = s.param := rfl
@[simp] theorem issue_done (i : Instr) : (issue i s).done = false := rfl
@[simp] theorem issue_errIllegal (i : Instr) : (issue i s).errIllegal = s.errIllegal := rfl
@[simp] theorem issue_errBusy (i : Instr) : (issue i s).errBusy = s.errBusy := rfl
@[simp] theorem issue_errAccess (i : Instr) : (issue i s).errAccess = s.errAccess := rfl
@[simp] theorem issue_pending (i : Instr) : (issue i s).pending = some i := rfl
@[simp] theorem issue_nrows (i : Instr) : (issue i s).nrows = s.nrows := rfl
@[simp] theorem issue_rows (i : Instr) : (issue i s).rows = s.rows := rfl
@[simp] theorem issue_result0 (i : Instr) : (issue i s).result0 = s.result0 := rfl
@[simp] theorem issue_result1 (i : Instr) : (issue i s).result1 = s.result1 := rfl
@[simp] theorem issue_frame0 (i : Instr) : (issue i s).frame0 = s.frame0 := rfl
@[simp] theorem issue_frame1 (i : Instr) : (issue i s).frame1 = s.frame1 := rfl
@[simp] theorem issue_frame2 (i : Instr) : (issue i s).frame2 = s.frame2 := rfl
@[simp] theorem issue_frame3 (i : Instr) : (issue i s).frame3 = s.frame3 := rfl
@[simp] theorem issue_tableCount (i : Instr) : (issue i s).tableCount = s.tableCount := rfl
@[simp] theorem issue_slots (i : Instr) : (issue i s).slots = s.slots := rfl
@[simp] theorem issue_host (i : Instr) : (issue i s).host = s.host := rfl
@[simp] theorem issue_replies (i : Instr) : (issue i s).replies = s.replies := rfl
@[simp] theorem issue_wait (i : Instr) : (issue i s).wait = Config.completionDelay s.draws := rfl
@[simp] theorem issue_draws (i : Instr) : (issue i s).draws = s.draws + 1 := rfl

/-! ### complete -/

@[simp] theorem complete_param : (complete s).param = s.param := rfl
@[simp] theorem complete_done : (complete s).done = true := rfl
@[simp] theorem complete_errIllegal : (complete s).errIllegal = s.errIllegal := rfl
@[simp] theorem complete_errBusy : (complete s).errBusy = s.errBusy := rfl
@[simp] theorem complete_errAccess : (complete s).errAccess = s.errAccess := rfl
@[simp] theorem complete_pending : (complete s).pending = none := rfl
@[simp] theorem complete_nrows : (complete s).nrows = s.nrows := rfl
@[simp] theorem complete_rows : (complete s).rows = s.rows := rfl
@[simp] theorem complete_result0 : (complete s).result0 = s.result0 := rfl
@[simp] theorem complete_result1 : (complete s).result1 = s.result1 := rfl
@[simp] theorem complete_frame0 : (complete s).frame0 = s.frame0 := rfl
@[simp] theorem complete_frame1 : (complete s).frame1 = s.frame1 := rfl
@[simp] theorem complete_frame2 : (complete s).frame2 = s.frame2 := rfl
@[simp] theorem complete_frame3 : (complete s).frame3 = s.frame3 := rfl
@[simp] theorem complete_tableCount : (complete s).tableCount = s.tableCount := rfl
@[simp] theorem complete_slots : (complete s).slots = s.slots := rfl
@[simp] theorem complete_host : (complete s).host = s.host := rfl
@[simp] theorem complete_replies : (complete s).replies = s.replies := rfl
@[simp] theorem complete_wait : (complete s).wait = 0 := rfl
@[simp] theorem complete_draws : (complete s).draws = s.draws := rfl

/-! ### freeTable -/

@[simp] theorem freeTable_param : (freeTable s).param = s.param := rfl
@[simp] theorem freeTable_done : (freeTable s).done = s.done := rfl
@[simp] theorem freeTable_errIllegal : (freeTable s).errIllegal = s.errIllegal := rfl
@[simp] theorem freeTable_errBusy : (freeTable s).errBusy = s.errBusy := rfl
@[simp] theorem freeTable_errAccess : (freeTable s).errAccess = s.errAccess := rfl
@[simp] theorem freeTable_pending : (freeTable s).pending = s.pending := rfl
@[simp] theorem freeTable_nrows : (freeTable s).nrows = s.nrows := rfl
@[simp] theorem freeTable_rows : (freeTable s).rows = s.rows := rfl
@[simp] theorem freeTable_result0 : (freeTable s).result0 = s.result0 := rfl
@[simp] theorem freeTable_result1 : (freeTable s).result1 = s.result1 := rfl
@[simp] theorem freeTable_frame0 : (freeTable s).frame0 = s.frame0 := rfl
@[simp] theorem freeTable_frame1 : (freeTable s).frame1 = s.frame1 := rfl
@[simp] theorem freeTable_frame2 : (freeTable s).frame2 = s.frame2 := rfl
@[simp] theorem freeTable_frame3 : (freeTable s).frame3 = s.frame3 := rfl
@[simp] theorem freeTable_tableCount : (freeTable s).tableCount = 0#8 := rfl
@[simp] theorem freeTable_slots : (freeTable s).slots = (s.slots.map fun _ => Slot.free) := rfl
@[simp] theorem freeTable_host : (freeTable s).host = s.host := rfl
@[simp] theorem freeTable_replies : (freeTable s).replies = s.replies := rfl
@[simp] theorem freeTable_wait : (freeTable s).wait = s.wait := rfl
@[simp] theorem freeTable_draws : (freeTable s).draws = s.draws := rfl

/-! ### setSlot -/

@[simp] theorem setSlot_param (k : Nat) (x : Slot) : (setSlot k x s).param = s.param := rfl
@[simp] theorem setSlot_done (k : Nat) (x : Slot) : (setSlot k x s).done = s.done := rfl
@[simp] theorem setSlot_errIllegal (k : Nat) (x : Slot) : (setSlot k x s).errIllegal = s.errIllegal := rfl
@[simp] theorem setSlot_errBusy (k : Nat) (x : Slot) : (setSlot k x s).errBusy = s.errBusy := rfl
@[simp] theorem setSlot_errAccess (k : Nat) (x : Slot) : (setSlot k x s).errAccess = s.errAccess := rfl
@[simp] theorem setSlot_pending (k : Nat) (x : Slot) : (setSlot k x s).pending = s.pending := rfl
@[simp] theorem setSlot_nrows (k : Nat) (x : Slot) : (setSlot k x s).nrows = s.nrows := rfl
@[simp] theorem setSlot_rows (k : Nat) (x : Slot) : (setSlot k x s).rows = s.rows := rfl
@[simp] theorem setSlot_result0 (k : Nat) (x : Slot) : (setSlot k x s).result0 = s.result0 := rfl
@[simp] theorem setSlot_result1 (k : Nat) (x : Slot) : (setSlot k x s).result1 = s.result1 := rfl
@[simp] theorem setSlot_frame0 (k : Nat) (x : Slot) : (setSlot k x s).frame0 = s.frame0 := rfl
@[simp] theorem setSlot_frame1 (k : Nat) (x : Slot) : (setSlot k x s).frame1 = s.frame1 := rfl
@[simp] theorem setSlot_frame2 (k : Nat) (x : Slot) : (setSlot k x s).frame2 = s.frame2 := rfl
@[simp] theorem setSlot_frame3 (k : Nat) (x : Slot) : (setSlot k x s).frame3 = s.frame3 := rfl
@[simp] theorem setSlot_tableCount (k : Nat) (x : Slot) : (setSlot k x s).tableCount = s.tableCount := rfl
@[simp] theorem setSlot_slots (k : Nat) (x : Slot) : (setSlot k x s).slots = s.slots.set k x := rfl
@[simp] theorem setSlot_host (k : Nat) (x : Slot) : (setSlot k x s).host = s.host := rfl
@[simp] theorem setSlot_replies (k : Nat) (x : Slot) : (setSlot k x s).replies = s.replies := rfl
@[simp] theorem setSlot_wait (k : Nat) (x : Slot) : (setSlot k x s).wait = s.wait := rfl
@[simp] theorem setSlot_draws (k : Nat) (x : Slot) : (setSlot k x s).draws = s.draws := rfl

/-! ### writeStatus -/

@[simp] theorem writeStatus_param (v : Word) : (writeStatus v s).param = s.param := rfl
@[simp] theorem writeStatus_done (v : Word) : (writeStatus v s).done = (s.done && !v.getLsbD 1) := rfl
@[simp] theorem writeStatus_errIllegal (v : Word) : (writeStatus v s).errIllegal = (s.errIllegal && !v.getLsbD 8) := rfl
@[simp] theorem writeStatus_errBusy (v : Word) : (writeStatus v s).errBusy = (s.errBusy && !v.getLsbD 9) := rfl
@[simp] theorem writeStatus_errAccess (v : Word) : (writeStatus v s).errAccess = (s.errAccess && !v.getLsbD 10) := rfl
@[simp] theorem writeStatus_pending (v : Word) : (writeStatus v s).pending = s.pending := rfl
@[simp] theorem writeStatus_nrows (v : Word) : (writeStatus v s).nrows = s.nrows := rfl
@[simp] theorem writeStatus_rows (v : Word) : (writeStatus v s).rows = s.rows := rfl
@[simp] theorem writeStatus_result0 (v : Word) : (writeStatus v s).result0 = s.result0 := rfl
@[simp] theorem writeStatus_result1 (v : Word) : (writeStatus v s).result1 = s.result1 := rfl
@[simp] theorem writeStatus_frame0 (v : Word) : (writeStatus v s).frame0 = s.frame0 := rfl
@[simp] theorem writeStatus_frame1 (v : Word) : (writeStatus v s).frame1 = s.frame1 := rfl
@[simp] theorem writeStatus_frame2 (v : Word) : (writeStatus v s).frame2 = s.frame2 := rfl
@[simp] theorem writeStatus_frame3 (v : Word) : (writeStatus v s).frame3 = s.frame3 := rfl
@[simp] theorem writeStatus_tableCount (v : Word) : (writeStatus v s).tableCount = s.tableCount := rfl
@[simp] theorem writeStatus_slots (v : Word) : (writeStatus v s).slots = s.slots := rfl
@[simp] theorem writeStatus_host (v : Word) : (writeStatus v s).host = s.host := rfl
@[simp] theorem writeStatus_replies (v : Word) : (writeStatus v s).replies = s.replies := rfl
@[simp] theorem writeStatus_wait (v : Word) : (writeStatus v s).wait = s.wait := rfl
@[simp] theorem writeStatus_draws (v : Word) : (writeStatus v s).draws = s.draws := rfl

/-! ### writeRowLen -/

@[simp] theorem writeRowLen_param (r : Nat) (v : Word) : (writeRowLen r v s).param = s.param := rfl
@[simp] theorem writeRowLen_done (r : Nat) (v : Word) : (writeRowLen r v s).done = s.done := rfl
@[simp] theorem writeRowLen_errIllegal (r : Nat) (v : Word) : (writeRowLen r v s).errIllegal = s.errIllegal := rfl
@[simp] theorem writeRowLen_errBusy (r : Nat) (v : Word) : (writeRowLen r v s).errBusy = s.errBusy := rfl
@[simp] theorem writeRowLen_errAccess (r : Nat) (v : Word) : (writeRowLen r v s).errAccess = s.errAccess := rfl
@[simp] theorem writeRowLen_pending (r : Nat) (v : Word) : (writeRowLen r v s).pending = s.pending := rfl
@[simp] theorem writeRowLen_nrows (r : Nat) (v : Word) : (writeRowLen r v s).nrows = s.nrows := rfl
@[simp] theorem writeRowLen_rows (r : Nat) (v : Word) : (writeRowLen r v s).rows = (s.rows.modify r fun row => { row with len := v.setWidth 16 }) := rfl
@[simp] theorem writeRowLen_result0 (r : Nat) (v : Word) : (writeRowLen r v s).result0 = s.result0 := rfl
@[simp] theorem writeRowLen_result1 (r : Nat) (v : Word) : (writeRowLen r v s).result1 = s.result1 := rfl
@[simp] theorem writeRowLen_frame0 (r : Nat) (v : Word) : (writeRowLen r v s).frame0 = s.frame0 := rfl
@[simp] theorem writeRowLen_frame1 (r : Nat) (v : Word) : (writeRowLen r v s).frame1 = s.frame1 := rfl
@[simp] theorem writeRowLen_frame2 (r : Nat) (v : Word) : (writeRowLen r v s).frame2 = s.frame2 := rfl
@[simp] theorem writeRowLen_frame3 (r : Nat) (v : Word) : (writeRowLen r v s).frame3 = s.frame3 := rfl
@[simp] theorem writeRowLen_tableCount (r : Nat) (v : Word) : (writeRowLen r v s).tableCount = s.tableCount := rfl
@[simp] theorem writeRowLen_slots (r : Nat) (v : Word) : (writeRowLen r v s).slots = s.slots := rfl
@[simp] theorem writeRowLen_host (r : Nat) (v : Word) : (writeRowLen r v s).host = s.host := rfl
@[simp] theorem writeRowLen_replies (r : Nat) (v : Word) : (writeRowLen r v s).replies = s.replies := rfl
@[simp] theorem writeRowLen_wait (r : Nat) (v : Word) : (writeRowLen r v s).wait = s.wait := rfl
@[simp] theorem writeRowLen_draws (r : Nat) (v : Word) : (writeRowLen r v s).draws = s.draws := rfl

/-! ### writeRowData -/

@[simp] theorem writeRowData_param (r w : Nat) (v : Word) : (writeRowData r w v s).param = s.param := rfl
@[simp] theorem writeRowData_done (r w : Nat) (v : Word) : (writeRowData r w v s).done = s.done := rfl
@[simp] theorem writeRowData_errIllegal (r w : Nat) (v : Word) : (writeRowData r w v s).errIllegal = s.errIllegal := rfl
@[simp] theorem writeRowData_errBusy (r w : Nat) (v : Word) : (writeRowData r w v s).errBusy = s.errBusy := rfl
@[simp] theorem writeRowData_errAccess (r w : Nat) (v : Word) : (writeRowData r w v s).errAccess = s.errAccess := rfl
@[simp] theorem writeRowData_pending (r w : Nat) (v : Word) : (writeRowData r w v s).pending = s.pending := rfl
@[simp] theorem writeRowData_nrows (r w : Nat) (v : Word) : (writeRowData r w v s).nrows = s.nrows := rfl
@[simp] theorem writeRowData_rows (r w : Nat) (v : Word) : (writeRowData r w v s).rows = (s.rows.modify r fun row => { row with data := row.data.set w v }) := rfl
@[simp] theorem writeRowData_result0 (r w : Nat) (v : Word) : (writeRowData r w v s).result0 = s.result0 := rfl
@[simp] theorem writeRowData_result1 (r w : Nat) (v : Word) : (writeRowData r w v s).result1 = s.result1 := rfl
@[simp] theorem writeRowData_frame0 (r w : Nat) (v : Word) : (writeRowData r w v s).frame0 = s.frame0 := rfl
@[simp] theorem writeRowData_frame1 (r w : Nat) (v : Word) : (writeRowData r w v s).frame1 = s.frame1 := rfl
@[simp] theorem writeRowData_frame2 (r w : Nat) (v : Word) : (writeRowData r w v s).frame2 = s.frame2 := rfl
@[simp] theorem writeRowData_frame3 (r w : Nat) (v : Word) : (writeRowData r w v s).frame3 = s.frame3 := rfl
@[simp] theorem writeRowData_tableCount (r w : Nat) (v : Word) : (writeRowData r w v s).tableCount = s.tableCount := rfl
@[simp] theorem writeRowData_slots (r w : Nat) (v : Word) : (writeRowData r w v s).slots = s.slots := rfl
@[simp] theorem writeRowData_host (r w : Nat) (v : Word) : (writeRowData r w v s).host = s.host := rfl
@[simp] theorem writeRowData_replies (r w : Nat) (v : Word) : (writeRowData r w v s).replies = s.replies := rfl
@[simp] theorem writeRowData_wait (r w : Nat) (v : Word) : (writeRowData r w v s).wait = s.wait := rfl
@[simp] theorem writeRowData_draws (r w : Nat) (v : Word) : (writeRowData r w v s).draws = s.draws := rfl

/-! ### passEvent -/

@[simp] theorem passEvent_param (rest : List HostOp) : (passEvent rest s).param = s.param := rfl
@[simp] theorem passEvent_done (rest : List HostOp) : (passEvent rest s).done = s.done := rfl
@[simp] theorem passEvent_errIllegal (rest : List HostOp) : (passEvent rest s).errIllegal = s.errIllegal := rfl
@[simp] theorem passEvent_errBusy (rest : List HostOp) : (passEvent rest s).errBusy = s.errBusy := rfl
@[simp] theorem passEvent_errAccess (rest : List HostOp) : (passEvent rest s).errAccess = s.errAccess := rfl
@[simp] theorem passEvent_pending (rest : List HostOp) : (passEvent rest s).pending = s.pending := rfl
@[simp] theorem passEvent_nrows (rest : List HostOp) : (passEvent rest s).nrows = s.nrows := rfl
@[simp] theorem passEvent_rows (rest : List HostOp) : (passEvent rest s).rows = s.rows := rfl
@[simp] theorem passEvent_result0 (rest : List HostOp) : (passEvent rest s).result0 = s.result0 := rfl
@[simp] theorem passEvent_result1 (rest : List HostOp) : (passEvent rest s).result1 = s.result1 := rfl
@[simp] theorem passEvent_frame0 (rest : List HostOp) : (passEvent rest s).frame0 = s.frame0 := rfl
@[simp] theorem passEvent_frame1 (rest : List HostOp) : (passEvent rest s).frame1 = s.frame1 := rfl
@[simp] theorem passEvent_frame2 (rest : List HostOp) : (passEvent rest s).frame2 = s.frame2 := rfl
@[simp] theorem passEvent_frame3 (rest : List HostOp) : (passEvent rest s).frame3 = s.frame3 := rfl
@[simp] theorem passEvent_tableCount (rest : List HostOp) : (passEvent rest s).tableCount = s.tableCount := rfl
@[simp] theorem passEvent_slots (rest : List HostOp) : (passEvent rest s).slots = s.slots := rfl
@[simp] theorem passEvent_host (rest : List HostOp) : (passEvent rest s).host = rest := rfl
@[simp] theorem passEvent_replies (rest : List HostOp) : (passEvent rest s).replies = s.replies := rfl
@[simp] theorem passEvent_wait (rest : List HostOp) : (passEvent rest s).wait = s.wait - 1 := rfl
@[simp] theorem passEvent_draws (rest : List HostOp) : (passEvent rest s).draws = s.draws := rfl

/-! ### reply -/

@[simp] theorem reply_param (v : Word) : (reply v s).param = s.param := rfl
@[simp] theorem reply_done (v : Word) : (reply v s).done = s.done := rfl
@[simp] theorem reply_errIllegal (v : Word) : (reply v s).errIllegal = s.errIllegal := rfl
@[simp] theorem reply_errBusy (v : Word) : (reply v s).errBusy = s.errBusy := rfl
@[simp] theorem reply_errAccess (v : Word) : (reply v s).errAccess = s.errAccess := rfl
@[simp] theorem reply_pending (v : Word) : (reply v s).pending = s.pending := rfl
@[simp] theorem reply_nrows (v : Word) : (reply v s).nrows = s.nrows := rfl
@[simp] theorem reply_rows (v : Word) : (reply v s).rows = s.rows := rfl
@[simp] theorem reply_result0 (v : Word) : (reply v s).result0 = s.result0 := rfl
@[simp] theorem reply_result1 (v : Word) : (reply v s).result1 = s.result1 := rfl
@[simp] theorem reply_frame0 (v : Word) : (reply v s).frame0 = s.frame0 := rfl
@[simp] theorem reply_frame1 (v : Word) : (reply v s).frame1 = s.frame1 := rfl
@[simp] theorem reply_frame2 (v : Word) : (reply v s).frame2 = s.frame2 := rfl
@[simp] theorem reply_frame3 (v : Word) : (reply v s).frame3 = s.frame3 := rfl
@[simp] theorem reply_tableCount (v : Word) : (reply v s).tableCount = s.tableCount := rfl
@[simp] theorem reply_slots (v : Word) : (reply v s).slots = s.slots := rfl
@[simp] theorem reply_host (v : Word) : (reply v s).host = s.host := rfl
@[simp] theorem reply_replies (v : Word) : (reply v s).replies = v :: s.replies := rfl
@[simp] theorem reply_wait (v : Word) : (reply v s).wait = s.wait := rfl
@[simp] theorem reply_draws (v : Word) : (reply v s).draws = s.draws := rfl

/-! ### finish -/

@[simp] theorem finish_param (cls : OutcomeClass) (reason : Reason) (r : Nat) (F : Frame) (x : Option Fields) : (finish cls reason r F x s).param = s.param := rfl
@[simp] theorem finish_done (cls : OutcomeClass) (reason : Reason) (r : Nat) (F : Frame) (x : Option Fields) : (finish cls reason r F x s).done = s.done := rfl
@[simp] theorem finish_errIllegal (cls : OutcomeClass) (reason : Reason) (r : Nat) (F : Frame) (x : Option Fields) : (finish cls reason r F x s).errIllegal = s.errIllegal := rfl
@[simp] theorem finish_errBusy (cls : OutcomeClass) (reason : Reason) (r : Nat) (F : Frame) (x : Option Fields) : (finish cls reason r F x s).errBusy = s.errBusy := rfl
@[simp] theorem finish_errAccess (cls : OutcomeClass) (reason : Reason) (r : Nat) (F : Frame) (x : Option Fields) : (finish cls reason r F x s).errAccess = s.errAccess := rfl
@[simp] theorem finish_pending (cls : OutcomeClass) (reason : Reason) (r : Nat) (F : Frame) (x : Option Fields) : (finish cls reason r F x s).pending = s.pending := rfl
@[simp] theorem finish_nrows (cls : OutcomeClass) (reason : Reason) (r : Nat) (F : Frame) (x : Option Fields) : (finish cls reason r F x s).nrows = s.nrows := rfl
@[simp] theorem finish_rows (cls : OutcomeClass) (reason : Reason) (r : Nat) (F : Frame) (x : Option Fields) : (finish cls reason r F x s).rows = s.rows := rfl
@[simp] theorem finish_frame0 (cls : OutcomeClass) (reason : Reason) (r : Nat) (F : Frame) (x : Option Fields) : (finish cls reason r F x s).frame0 = (if cls = .noCandidate then 0#32 else frameWord F 0) := rfl
@[simp] theorem finish_frame1 (cls : OutcomeClass) (reason : Reason) (r : Nat) (F : Frame) (x : Option Fields) : (finish cls reason r F x s).frame1 = (if cls = .noCandidate then 0#32 else frameWord F 1) := rfl
@[simp] theorem finish_frame2 (cls : OutcomeClass) (reason : Reason) (r : Nat) (F : Frame) (x : Option Fields) : (finish cls reason r F x s).frame2 = (if cls = .noCandidate then 0#32 else frameWord F 2) := rfl
@[simp] theorem finish_frame3 (cls : OutcomeClass) (reason : Reason) (r : Nat) (F : Frame) (x : Option Fields) : (finish cls reason r F x s).frame3 = (if cls = .noCandidate then 0#32 else frameWord F 3) := rfl
@[simp] theorem finish_tableCount (cls : OutcomeClass) (reason : Reason) (r : Nat) (F : Frame) (x : Option Fields) : (finish cls reason r F x s).tableCount = s.tableCount := rfl
@[simp] theorem finish_slots (cls : OutcomeClass) (reason : Reason) (r : Nat) (F : Frame) (x : Option Fields) : (finish cls reason r F x s).slots = s.slots := rfl
@[simp] theorem finish_host (cls : OutcomeClass) (reason : Reason) (r : Nat) (F : Frame) (x : Option Fields) : (finish cls reason r F x s).host = s.host := rfl
@[simp] theorem finish_replies (cls : OutcomeClass) (reason : Reason) (r : Nat) (F : Frame) (x : Option Fields) : (finish cls reason r F x s).replies = s.replies := rfl
@[simp] theorem finish_wait (cls : OutcomeClass) (reason : Reason) (r : Nat) (F : Frame) (x : Option Fields) : (finish cls reason r F x s).wait = s.wait := rfl
@[simp] theorem finish_draws (cls : OutcomeClass) (reason : Reason) (r : Nat) (F : Frame) (x : Option Fields) : (finish cls reason r F x s).draws = s.draws := rfl

/-! ### resetBlock -/

@[simp] theorem resetBlock_param : (resetBlock s).param = s.param := rfl
@[simp] theorem resetBlock_done : (resetBlock s).done = false := rfl
@[simp] theorem resetBlock_errIllegal : (resetBlock s).errIllegal = false := rfl
@[simp] theorem resetBlock_errBusy : (resetBlock s).errBusy = false := rfl
@[simp] theorem resetBlock_errAccess : (resetBlock s).errAccess = false := rfl
@[simp] theorem resetBlock_pending : (resetBlock s).pending = none := rfl
@[simp] theorem resetBlock_nrows : (resetBlock s).nrows = 0#7 := rfl
@[simp] theorem resetBlock_rows : (resetBlock s).rows = drawnRows s.param.nRows s.draws := rfl
@[simp] theorem resetBlock_result0 : (resetBlock s).result0 = Result0.zero := rfl
@[simp] theorem resetBlock_result1 : (resetBlock s).result1 = Result1.zero := rfl
@[simp] theorem resetBlock_frame0 : (resetBlock s).frame0 = 0#32 := rfl
@[simp] theorem resetBlock_frame1 : (resetBlock s).frame1 = 0#32 := rfl
@[simp] theorem resetBlock_frame2 : (resetBlock s).frame2 = 0#32 := rfl
@[simp] theorem resetBlock_frame3 : (resetBlock s).frame3 = 0#32 := rfl
@[simp] theorem resetBlock_tableCount : (resetBlock s).tableCount = 0#8 := rfl
@[simp] theorem resetBlock_slots : (resetBlock s).slots = List.replicate s.param.nDev Slot.free := rfl
@[simp] theorem resetBlock_host : (resetBlock s).host = s.host := rfl
@[simp] theorem resetBlock_replies : (resetBlock s).replies = s.replies := rfl
@[simp] theorem resetBlock_wait : (resetBlock s).wait = 0 := rfl
@[simp] theorem resetBlock_draws : (resetBlock s).draws = s.draws + 1 := rfl

@[simp] theorem finish_result0_reject (cls : OutcomeClass) (reason : Reason) (r : Nat) (F : Frame) :
    (finish cls reason r F none s).result0 =
      ⟨cls, reason, false, false, if reason = .noRow then 0#6 else BitVec.ofNat 6 r⟩ := rfl

@[simp] theorem finish_result0_accept (cls : OutcomeClass) (reason : Reason) (r : Nat) (F : Frame) (x : Fields) :
    (finish cls reason r F (some x) s).result0 =
      ⟨cls, reason, x.susp, x.neg, if reason = .noRow then 0#6 else BitVec.ofNat 6 r⟩ := rfl

@[simp] theorem finish_result1_reject (cls : OutcomeClass) (reason : Reason) (r : Nat) (F : Frame) :
    (finish cls reason r F none s).result1 = Result1.zero := rfl

@[simp] theorem finish_result1_accept (cls : OutcomeClass) (reason : Reason) (r : Nat) (F : Frame) (x : Fields) :
    (finish cls reason r F (some x) s).result1 = ⟨x.id, x.ch, BitVec.ofInt 16 x.t⟩ := rfl

/-! ### views that an update leaves alone -/

@[simp] theorem busy_complete : (complete s).busy = false := rfl
@[simp] theorem busy_issue (i : Instr) : (issue i s).busy = true := rfl
@[simp] theorem busy_resetBlock : (resetBlock s).busy = false := rfl
@[simp] theorem busy_raise (e : BusError) : (raise e s).busy = s.busy := rfl
@[simp] theorem busy_passEvent (rest : List HostOp) : (passEvent rest s).busy = s.busy := rfl
@[simp] theorem busy_reply (v : Word) : (reply v s).busy = s.busy := rfl
@[simp] theorem rowAt_passEvent (rest : List HostOp) (r : Nat) : (passEvent rest s).rowAt r = s.rowAt r := rfl
@[simp] theorem rowAt_raise (e : BusError) (r : Nat) : (raise e s).rowAt r = s.rowAt r := rfl
@[simp] theorem rowAt_complete (r : Nat) : (complete s).rowAt r = s.rowAt r := rfl
@[simp] theorem slotAt_passEvent (rest : List HostOp) (k : Nat) : (passEvent rest s).slotAt k = s.slotAt k := rfl
@[simp] theorem slotAt_raise (e : BusError) (k : Nat) : (raise e s).slotAt k = s.slotAt k := rfl
@[simp] theorem slotAt_complete (k : Nat) : (complete s).slotAt k = s.slotAt k := rfl

theorem busy_eq_false_iff : s.busy = false ↔ s.pending = none := by
  cases h : s.pending <;> simp [State.busy, h]

theorem busy_eq_true_iff : s.busy = true ↔ ∃ i, s.pending = some i := by
  cases h : s.pending <;> simp [State.busy, h]

/-! ### raise, one error at a time -/

theorem raise_illegal_eq : raise .illegal s = { s with errIllegal := true } := by simp [raise]
theorem raise_busy_eq : raise .busy s = { s with errBusy := true } := by simp [raise]
theorem raise_access_eq : raise .access s = { s with errAccess := true } := by simp [raise]

end Sys2Proof.Machine
end

