-- ==== Sys2Proof/Laws/Operands.lean ====
section
/-!
SUPPORT. What the Frame Locator selects, and the bits of raw bytes, words and Frame bytes.
-/

namespace Sys2Proof.Machine

theorem isCandidate_iff (s : State) (r : Nat) : isCandidate s r = true ↔ (s.rowAt r).len = 227#16 := by
  unfold isCandidate State.rowAt
  cases s.row? r with
  | none => simp
  | some row =>
    simp only [beq_iff_eq, Option.getD_some, rowBits]
    constructor
    · intro h; apply BitVec.eq_of_toNat_eq; simpa using h
    · intro h; simp [h]

theorem locateFrom_eq_some_iff (s : State) : ∀ (n q r : Nat), locateFrom s n q = some r ↔
    q ≤ r ∧ r < q + n ∧ (s.rowAt r).len = 227#16 ∧ ∀ k, q ≤ k → k < r → (s.rowAt k).len ≠ 227#16
  | 0, q, r => by simp [locateFrom]; omega
  | n + 1, q, r => by
    unfold locateFrom
    split
    case isTrue h =>
      rw [isCandidate_iff] at h
      constructor
      · rintro ⟨⟩; exact ⟨Nat.le_refl _, by omega, h, fun k h1 h2 => by omega⟩
      · rintro ⟨h1, _, _, h4⟩
        rcases Nat.lt_or_ge q r with hlt | hge
        · exact absurd h (h4 q (Nat.le_refl _) hlt)
        · simp; omega
    case isFalse h =>
      rw [isCandidate_iff] at h
      rw [locateFrom_eq_some_iff s n (q + 1) r]
      constructor
      · rintro ⟨h1, h2, h3, h4⟩
        refine ⟨by omega, by omega, h3, fun k hk1 hk2 => ?_⟩
        rcases Nat.eq_or_lt_of_le hk1 with rfl | hlt
        · exact h
        · exact h4 k hlt hk2
      · rintro ⟨h1, h2, h3, h4⟩
        have : q ≠ r := by rintro rfl; exact h h3
        exact ⟨by omega, by omega, h3, fun k hk1 hk2 => h4 k (by omega) hk2⟩

theorem locate_some_spec {s : State} {r : Nat} (h : locate s = some r) :
    r < s.nrows.toNat ∧ (s.rowAt r).len = 227#16 ∧ ∀ k < r, (s.rowAt k).len ≠ 227#16 := by
  obtain ⟨_, h2, h3, h4⟩ := (locateFrom_eq_some_iff s _ 0 r).1 h
  exact ⟨by omega, h3, fun k hk => h4 k (Nat.zero_le _) hk⟩

theorem locate_eq_some_of {s : State} {r : Nat} (h1 : r < s.nrows.toNat) (h2 : (s.rowAt r).len = 227#16)
    (h3 : ∀ k < r, (s.rowAt k).len ≠ 227#16) : locate s = some r :=
  (locateFrom_eq_some_iff s _ 0 r).2 ⟨Nat.zero_le _, by omega, h2, fun k _ hk => h3 k hk⟩

/-- Locate reads NROWS and the lengths, and nothing else. -/
theorem locateFrom_congr {s u : State} (h : ∀ r, (u.rowAt r).len = (s.rowAt r).len) :
    ∀ n q, locateFrom u n q = locateFrom s n q
  | 0, _ => rfl
  | n + 1, q => by
    have hc : isCandidate u q = isCandidate s q := by
      rw [Bool.eq_iff_iff, isCandidate_iff, isCandidate_iff, h]
    unfold locateFrom
    rw [hc, locateFrom_congr h n (q + 1)]

theorem locate_congr_rows {s u : State} (hn : u.nrows = s.nrows) (h : u.rows = s.rows) : locate u = locate s := by
  unfold locate
  rw [hn]
  exact locateFrom_congr (fun r => by simp [State.rowAt, State.row?, h]) _ _

theorem rowAt_congr {s u : State} (h : u.rows = s.rows) (r : Nat) : u.rowAt r = s.rowAt r := by
  simp [State.rowAt, State.row?, h]

@[simp] theorem byteOfBits_getLsbD (f : Nat → Bool) (m : Nat) (hm : m < 8) : (byteOfBits f).getLsbD m = f m := by
  unfold byteOfBits
  have : m = 0 ∨ m = 1 ∨ m = 2 ∨ m = 3 ∨ m = 4 ∨ m = 5 ∨ m = 6 ∨ m = 7 := by omega
  rcases this with h | h | h | h | h | h | h | h <;> subst h <;>
    simp only [BitVec.getLsbD_append, BitVec.getLsbD_ofBool] <;> simp

theorem byte_ext {a b : Byte} (h : ∀ m < 8, a.getLsbD m = b.getLsbD m) : a = b :=
  BitVec.eq_of_getLsbD_eq h

/-- Bit `m` of raw byte `j` is raw bit 8j + 7 - m (R93). -/
theorem rowByte_getLsbD (row : Row) (j m : Nat) (hm : m < 8) :
    (rowByte row j).getLsbD m = rowBit row (8 * j + (7 - m)) := by
  unfold rowBit
  have h1 : (8 * j + (7 - m)) / 8 = j := by omega
  have h2 : 7 - (8 * j + (7 - m)) % 8 = m := by omega
  rw [h1, h2]

/-- Rows that agree on raw bits up to `8 * j + 7` agree on raw byte `j`. -/
theorem rowByte_congr {row row' : Row} (N j : Nat) (hj : 8 * j + 8 ≤ N)
    (h : ∀ k < N, rowBit row' k = rowBit row k) : rowByte row' j = rowByte row j :=
  byte_ext fun m hm => by
    rw [rowByte_getLsbD _ _ _ hm, rowByte_getLsbD _ _ _ hm]
    exact h _ (by omega)

theorem Frame.hi_getLsbD (F : Frame) (n m : Nat) (hm : m < 4) : (F.hi n).getLsbD m = (F.byte n).getLsbD (4 + m) := by
  simp [Frame.hi, hm]

theorem Frame.lo_getLsbD (F : Frame) (n m : Nat) (hm : m < 4) : (F.lo n).getLsbD m = (F.byte n).getLsbD m := by
  simp [Frame.lo, hm]

/-- Byte `b` of a word made of four bytes (R67). -/
theorem wordByte_append (b3 b2 b1 b0 : Byte) : wordByte (b3 ++ b2 ++ b1 ++ b0) 0 = b0 ∧
    wordByte (b3 ++ b2 ++ b1 ++ b0) 1 = b1 ∧ wordByte (b3 ++ b2 ++ b1 ++ b0) 2 = b2 ∧
    wordByte (b3 ++ b2 ++ b1 ++ b0) 3 = b3 := by
  refine ⟨?_, ?_, ?_, ?_⟩ <;>
    (apply byte_ext; intro m hm
     have : m = 0 ∨ m = 1 ∨ m = 2 ∨ m = 3 ∨ m = 4 ∨ m = 5 ∨ m = 6 ∨ m = 7 := by omega
     rcases this with h | h | h | h | h | h | h | h <;> subst h <;>
       simp only [wordByte, BitVec.getLsbD_extractLsb', BitVec.getLsbD_append] <;> simp)

end Sys2Proof.Machine
end

