-- ==== Sys2Proof/Laws/LineDecoder.lean ====
section
/-!
SUPPORT. The bits the line decoder produces, and the bits of a row that carries a Frame.
-/

namespace Sys2Proof.Machine

theorem invert_getD (row : Row) (k : Nat) (hk : k < 224) : (invert row).getD k false = !rowBit row k := by
  have hk' : k < 16 * frameBytes := by simpa [frameBytes] using hk
  simp [invert, List.getD_eq_getElem?_getD, hk']

/-- Pair `i` of an inverted bit string is valid. -/
def invPairValid (I : List Bool) (start i : Nat) : Prop :=
  I.getD (start + 2 * i) false ≠ I.getD (start + 2 * i + 1) false

theorem manchesterBits_cons {I : List Bool} {start i : Nat} (n : Nat) (h : invPairValid I start i) :
    manchesterBits I start (n + 1) i = I.getD (start + 2 * i + 1) false :: manchesterBits I start n (i + 1) := by
  unfold invPairValid at h
  rw [manchesterBits]
  cases ha : I.getD (start + 2 * i) false <;> cases hb : I.getD (start + 2 * i + 1) false <;> simp_all

theorem manchesterBits_stop {I : List Bool} {start i : Nat} (n : Nat) (h : ¬invPairValid I start i) :
    manchesterBits I start n i = [] := by
  unfold invPairValid at h
  cases n with
  | zero => rfl
  | succ n =>
    rw [manchesterBits]
    cases ha : I.getD (start + 2 * i) false <;> cases hb : I.getD (start + 2 * i + 1) false <;> simp_all

/-- Up to the first invalid pair a decoded bit is the second half of its inverted pair (R126). -/
theorem manchesterBits_getD_of_valid (I : List Bool) (start : Nat) : ∀ (n i j : Nat), j < n →
    (∀ k ≤ j, invPairValid I start (i + k)) →
    (manchesterBits I start n i).getD j false = I.getD (start + 2 * (i + j) + 1) false
  | 0, _, j, hj, _ => by omega
  | n + 1, i, j, hj, h => by
    rw [manchesterBits_cons n (by simpa using h 0 (Nat.zero_le _))]
    cases j with
    | zero => simp
    | succ j =>
      rw [List.getD_cons_succ, manchesterBits_getD_of_valid I start n (i + 1) j (by omega)]
      · congr 1; omega
      · intro k hk
        have := h (k + 1) (by omega)
        rwa [show i + 1 + k = i + (k + 1) by omega]

/-- From the first invalid pair on the decoded bits are 0 (R127). -/
theorem manchesterBits_getD_of_invalid (I : List Bool) (start : Nat) : ∀ (n i j k : Nat), k ≤ j →
    ¬invPairValid I start (i + k) → (manchesterBits I start n i).getD j false = false
  | 0, _, j, _, _, _ => by simp [manchesterBits]
  | n + 1, i, j, k, hk, h => by
    by_cases hv : invPairValid I start i
    · rw [manchesterBits_cons n hv]
      cases k with
      | zero => exact absurd hv h
      | succ k =>
        cases j with
        | zero => omega
        | succ j =>
          rw [List.getD_cons_succ]
          exact manchesterBits_getD_of_invalid I start n (i + 1) j k (by omega)
            (by rwa [show i + 1 + k = i + (k + 1) by omega])
    · simp [manchesterBits_stop _ hv]

@[simp] theorem lineDecode_length (row : Row) : (lineDecode row).length = 14 := by
  simp [lineDecode, reflect, frameBytes]

/-- Reflection puts decoded bit 8n + m at bit m of Frame byte n (R128, R130). -/
theorem lineDecode_getLsbD (row : Row) {n m : Nat} (hn : n < 14) (hm : m < 8) :
    ((lineDecode row).byte n).getLsbD m = (manchesterBits (invert row) 0 112 0).getD (8 * n + m) false := by
  have h7 : 7 - m < 8 := by omega
  have h77 : 7 - (7 - m) = m := by omega
  have hr : (lineDecode row).byte n = reflectByte ((manchester (invert row) 0 14).byte n) := by
    simp [lineDecode, reflect, Frame.byte, List.getD_eq_getElem?_getD, hn, show frameBytes = 14 from rfl, manchStart]
  have hb : (manchester (invert row) 0 14).byte n =
      byteOfBits fun m => (manchesterBits (invert row) 0 112 0).getD (8 * n + (7 - m)) false := by
    simp [manchester, Frame.byte, List.getD_eq_getElem?_getD, hn]
  rw [hr, reflectByte, byteOfBits_getLsbD _ _ hm, hb, byteOfBits_getLsbD _ _ h7, h77]

theorem invPairValid_invert_iff (row : Row) {i : Nat} (hi : i < 112) :
    invPairValid (invert row) 0 i ↔ rowBit row (2 * i) ≠ rowBit row (2 * i + 1) := by
  unfold invPairValid
  rw [invert_getD _ _ (by omega), invert_getD _ _ (by omega), Nat.zero_add]
  cases rowBit row (2 * i) <;> cases rowBit row (2 * i + 1) <;> simp

/-- A decoded bit whose pairs so far are all valid is the first raw bit of its pair (R104, R130). -/
theorem lineDecode_bit_of_valid (row : Row) {n m : Nat} (hn : n < 14) (hm : m < 8)
    (h : ∀ i ≤ 8 * n + m, rowBit row (2 * i) ≠ rowBit row (2 * i + 1)) :
    ((lineDecode row).byte n).getLsbD m = rowBit row (2 * (8 * n + m)) := by
  rw [lineDecode_getLsbD row hn hm, manchesterBits_getD_of_valid _ _ _ _ _ (by omega)]
  · rw [invert_getD _ _ (by omega)]
    have := h (8 * n + m) (Nat.le_refl _)
    rw [show 0 + 2 * (0 + (8 * n + m)) + 1 = 2 * (8 * n + m) + 1 by omega]
    cases h1 : rowBit row (2 * (8 * n + m)) <;> cases h2 : rowBit row (2 * (8 * n + m) + 1) <;> simp_all
  · intro k hk
    rw [Nat.zero_add, invPairValid_invert_iff row (by omega)]
    exact h k hk

/-- A decoded bit at or after an invalid pair is 0 (R127). -/
theorem lineDecode_bit_of_invalid (row : Row) {n m i : Nat} (hn : n < 14) (hm : m < 8) (hi : i ≤ 8 * n + m)
    (h : rowBit row (2 * i) = rowBit row (2 * i + 1)) : ((lineDecode row).byte n).getLsbD m = false := by
  rw [lineDecode_getLsbD row hn hm]
  apply manchesterBits_getD_of_invalid _ _ _ _ _ i hi
  rw [Nat.zero_add, invPairValid_invert_iff row (by omega)]
  exact not_not_intro h

theorem frame_ext {F G : Frame} (hF : F.length = 14) (hG : G.length = 14)
    (h : ∀ n < 14, ∀ m < 8, (F.byte n).getLsbD m = (G.byte n).getLsbD m) : F = G := by
  apply List.ext_getElem (by omega)
  intro n h1 h2
  have := byte_ext (h n (by omega))
  simpa [Frame.byte, List.getD_eq_getElem?_getD, h1, h2] using this

/-- The line decoder reads raw bits 0 to 223 (R133). -/
theorem lineDecode_congr {row row' : Row} (h : ∀ k < 224, rowBit row' k = rowBit row k) :
    lineDecode row' = lineDecode row := by
  have : invert row' = invert row := by
    unfold invert
    apply List.map_congr_left
    intro k hk
    rw [List.mem_range] at hk
    rw [h k (by simpa [frameBytes] using hk)]
  unfold lineDecode
  rw [this]

/-! ### rows that carry a Frame -/

theorem rawOfNibble_getLsbD (x : BitVec 4) {m : Nat} (hm : m < 4) :
    (rawOfNibble x).getLsbD (7 - 2 * m) = x.getLsbD m ∧ (rawOfNibble x).getLsbD (6 - 2 * m) = !x.getLsbD m := by
  unfold rawOfNibble
  rw [byteOfBits_getLsbD _ _ (by omega), byteOfBits_getLsbD _ _ (by omega)]
  rw [if_pos (by omega), if_neg (by omega)]
  constructor <;> congr <;> omega

theorem rowByte_rowOfFrame (F : Frame) (tail : Word) {j : Nat} (hj : j < 28) :
    rowByte (rowOfFrame F tail) j = rawOfFrame F j := by
  have h7 : j / 4 < 7 := by omega
  have hlen : j / 4 < ((List.range 7).map fun w => rawOfFrame F (4 * w + 3) ++ rawOfFrame F (4 * w + 2) ++
      rawOfFrame F (4 * w + 1) ++ rawOfFrame F (4 * w)).length := by simpa using h7
  unfold rowByte rowOfFrame
  simp only
  rw [List.getD_eq_getElem?_getD, List.getElem?_append_left hlen]
  simp only [List.getElem?_map, List.getElem?_range h7, Option.map_some, Option.getD_some]
  obtain ⟨h0, h1, h2, h3⟩ := wordByte_append (rawOfFrame F (4 * (j / 4) + 3)) (rawOfFrame F (4 * (j / 4) + 2))
    (rawOfFrame F (4 * (j / 4) + 1)) (rawOfFrame F (4 * (j / 4)))
  have hc : j % 4 = 0 ∨ j % 4 = 1 ∨ j % 4 = 2 ∨ j % 4 = 3 := by omega
  rcases hc with h | h | h | h <;> rw [h] <;> [rw [h0]; rw [h1]; rw [h2]; rw [h3]] <;> congr 1 <;> omega

/-- In the row that carries `F`, raw bit 2(8n + m) is Frame[n][m] and the raw bit after it is its complement (R105). -/
theorem rowBit_rowOfFrame (F : Frame) (tail : Word) {n m : Nat} (hn : n < 14) (hm : m < 8) :
    rowBit (rowOfFrame F tail) (2 * (8 * n + m)) = (F.byte n).getLsbD m ∧
      rowBit (rowOfFrame F tail) (2 * (8 * n + m) + 1) = !(F.byte n).getLsbD m := by
  unfold rowBit
  rcases Nat.lt_or_ge m 4 with h4 | h4
  · have e1 : 2 * (8 * n + m) / 8 = 2 * n := by omega
    have e2 : (2 * (8 * n + m) + 1) / 8 = 2 * n := by omega
    rw [e1, e2, rowByte_rowOfFrame F tail (by omega)]
    unfold rawOfFrame
    rw [if_pos (by omega), show 2 * n / 2 = n by omega, show 7 - 2 * (8 * n + m) % 8 = 7 - 2 * m by omega,
      show 7 - (2 * (8 * n + m) + 1) % 8 = 6 - 2 * m by omega, (rawOfNibble_getLsbD _ h4).1,
      (rawOfNibble_getLsbD _ h4).2, Frame.lo_getLsbD _ _ _ h4]
    exact ⟨rfl, rfl⟩
  · have e1 : 2 * (8 * n + m) / 8 = 2 * n + 1 := by omega
    have e2 : (2 * (8 * n + m) + 1) / 8 = 2 * n + 1 := by omega
    rw [e1, e2, rowByte_rowOfFrame F tail (by omega)]
    unfold rawOfFrame
    rw [if_neg (by omega), show (2 * n + 1) / 2 = n by omega,
      show 7 - 2 * (8 * n + m) % 8 = 7 - 2 * (m - 4) by omega,
      show 7 - (2 * (8 * n + m) + 1) % 8 = 6 - 2 * (m - 4) by omega,
      (rawOfNibble_getLsbD _ (show m - 4 < 4 by omega)).1, (rawOfNibble_getLsbD _ (show m - 4 < 4 by omega)).2,
      Frame.hi_getLsbD _ _ _ (show m - 4 < 4 by omega), show 4 + (m - 4) = m by omega]
    exact ⟨rfl, rfl⟩

/-! ### the pre-checks -/

theorem preambleOK_iff (row : Row) : preambleOK row = true ↔
    rowByte row 0 = 0xAA#8 ∧ rowByte row 1 = 0xAA#8 ∧ rowByte row 2 = 0xAA#8 := by
  simp [preambleOK, preRawBytes, preambleRaw, List.range_succ]

theorem sentinelOK_iff (row : Row) : sentinelOK row = true ↔ rowByte row 27 = 0x69#8 := by
  simp [sentinelOK, lastRawIndex, rowBits, sentinelRaw]

end Sys2Proof.Machine
end

