-- ==== Sys2Proof/Laws/Validator.lean ====
section
/-!
SUPPORT. When the validator passes, which reason it gives otherwise, and the bounds of what the extractor yields.
-/

namespace Sys2Proof.Machine

theorem channelOK_true (F : Frame) : channelOK F = true := by
  have := (F.hi 5).isLt
  simp [channelOK, chMin, chMax]
  omega

theorem trailerOK_iff (F : Frame) : trailerOK F = true ↔ F.byte 13 = 0x65#8 := by
  simp [trailerOK, trailer]

theorem bcdOK_iff (F : Frame) : bcdOK F = true ↔
    (F.hi 7).toNat ≤ 9 ∧ (F.hi 8).toNat ≤ 9 ∧ (F.lo 8).toNat ≤ 9 := by
  simp only [bcdOK, Bool.and_eq_true, decide_eq_true_eq, and_assoc]
  exact Iff.rfl

theorem rangeOK_iff (t : Int) : rangeOK t = true ↔ -400 ≤ t ∧ t ≤ 600 := by
  simp only [rangeOK, Bool.and_eq_true, decide_eq_true_eq]
  exact Iff.rfl

/-- The fields of a Frame that the validator passes (R150). -/
theorem validate_eq_ok_iff (F : Frame) (x : Fields) : validate F = .ok x ↔
    F.byte 13 = 0x65#8 ∧ ((F.hi 7).toNat ≤ 9 ∧ (F.hi 8).toNat ≤ 9 ∧ (F.lo 8).toNat ≤ 9) ∧
      (-400 ≤ tempOf F ∧ tempOf F ≤ 600) ∧ x = extract F := by
  rw [← trailerOK_iff, ← bcdOK_iff, ← rangeOK_iff]
  unfold validate
  rw [channelOK_true, show (extract F).t = tempOf F from rfl]
  cases trailerOK F <;> cases bcdOK F <;> cases rangeOK (tempOf F) <;> simp [eq_comm]

theorem validate_trailer {F : Frame} (h : F.byte 13 ≠ 0x65#8) : validate F = .error .trailer := by
  have h' : trailerOK F = false := by rw [Bool.eq_false_iff, Ne, trailerOK_iff]; exact h
  simp [validate, h']

theorem validate_bcd {F : Frame} (h : F.byte 13 = 0x65#8)
    (hb : ¬((F.hi 7).toNat ≤ 9 ∧ (F.hi 8).toNat ≤ 9 ∧ (F.lo 8).toNat ≤ 9)) : validate F = .error .bcd := by
  have h' : bcdOK F = false := by rw [Bool.eq_false_iff, Ne, bcdOK_iff]; exact hb
  simp [validate, (trailerOK_iff F).2 h, channelOK_true, h']

theorem validate_tempRange {F : Frame} (h : F.byte 13 = 0x65#8)
    (hb : (F.hi 7).toNat ≤ 9 ∧ (F.hi 8).toNat ≤ 9 ∧ (F.lo 8).toNat ≤ 9) (ht : ¬(-400 ≤ tempOf F ∧ tempOf F ≤ 600)) :
    validate F = .error .tempRange := by
  have h' : rangeOK (tempOf F) = false := by rw [Bool.eq_false_iff, Ne, rangeOK_iff]; exact ht
  have e : (extract F).t = tempOf F := rfl
  simp [validate, (trailerOK_iff F).2 h, channelOK_true, (bcdOK_iff F).2 hb, e, h']

/-- The only reasons the validator gives; CHANNEL is none of them (R157). -/
theorem validate_error_reason {F : Frame} {reason : Reason} (h : validate F = .error reason) :
    reason = .trailer ∨ reason = .bcd ∨ reason = .tempRange := by
  by_cases h1 : F.byte 13 = 0x65#8
  · by_cases h2 : (F.hi 7).toNat ≤ 9 ∧ (F.hi 8).toNat ≤ 9 ∧ (F.lo 8).toNat ≤ 9
    · by_cases h3 : -400 ≤ tempOf F ∧ tempOf F ≤ 600
      · rw [(validate_eq_ok_iff F (extract F)).2 ⟨h1, h2, h3, rfl⟩] at h; cases h
      · rw [validate_tempRange h1 h2 h3] at h; cases h; simp
    · rw [validate_bcd h1 h2] at h; cases h; simp
  · rw [validate_trailer h1] at h; cases h; simp

theorem channelOf_toNat (F : Frame) : (channelOf F).toNat = (F.hi 5).toNat + 1 := by
  have := (F.hi 5).isLt
  simp only [channelOf, BitVec.toNat_add, BitVec.toNat_setWidth, BitVec.toNat_ofNat]
  omega

/-- A 16-bit register holds a temperature in range exactly (R99, R175). -/
theorem toInt_ofInt_of_range {t : Int} (h1 : -32768 ≤ t) (h2 : t < 32768) : (BitVec.ofInt 16 t).toInt = t := by
  rw [BitVec.toInt_ofInt]
  exact Int.bmod_eq_of_le (by omega) (by omega)

/-- What the validator guarantees of the fields it passes on. -/
theorem validate_ok_bounds {F : Frame} {x : Fields} (h : validate F = .ok x) :
    -400 ≤ x.t ∧ x.t ≤ 600 ∧ (BitVec.ofInt 16 x.t).toInt = x.t ∧ 1 ≤ x.ch.toNat ∧ x.ch.toNat ≤ 16 := by
  obtain ⟨_, _, ⟨h1, h2⟩, rfl⟩ := (validate_eq_ok_iff F x).1 h
  have := (F.hi 5).isLt
  refine ⟨h1, h2, toInt_ofInt_of_range ?_ ?_, ?_, ?_⟩
  · show -32768 ≤ tempOf F; omega
  · show tempOf F < 32768; omega
  · show 1 ≤ (channelOf F).toNat; rw [channelOf_toNat]; omega
  · show (channelOf F).toNat ≤ 16; rw [channelOf_toNat]; omega

end Sys2Proof.Machine
end

