-- ==== Sys2Proof/Laws/Filter.lean ====
section
/-!
SUPPORT. Everything the device-state filter can do.
-/

namespace Sys2Proof.Machine

theorem slotAt_of_lt {s : State} {k : Nat} (h : k < s.slots.length) : s.slotAt k = s.slots[k] := by
  simp [State.slotAt, List.getD_eq_getElem?_getD, h]

theorem slotAt_of_ge {s : State} {k : Nat} (h : s.slots.length ≤ k) : s.slotAt k = Slot.free := by
  simp [State.slotAt, List.getD_eq_getElem?_getD, h]

theorem lt_of_slotAt_used {s : State} {k : Nat} (h : (s.slotAt k).used = true) : k < s.slots.length := by
  by_contra hn
  rw [slotAt_of_ge (by omega)] at h
  cases h

theorem slotAt_congr {s u : State} (h : u.slots = s.slots) (k : Nat) : u.slotAt k = s.slotAt k := by
  simp [State.slotAt, h]

@[simp] theorem slotAt_setSlot_self {s : State} {k : Nat} (x : Slot) (h : k < s.slots.length) :
    (setSlot k x s).slotAt k = x := by
  simp [State.slotAt, List.getD_eq_getElem?_getD, h]

@[simp] theorem slotAt_setSlot_ne {s : State} {j k : Nat} (x : Slot) (h : j ≠ k) :
    (setSlot k x s).slotAt j = s.slotAt j := by
  simp [State.slotAt, List.getD_eq_getElem?_getD, List.getElem?_set_ne (Ne.symm h)]

theorem slots_set_slotAt (s : State) (k : Nat) : s.slots.set k (s.slotAt k) = s.slots := by
  rcases Nat.lt_or_ge k s.slots.length with h | h
  · rw [slotAt_of_lt h, List.set_getElem_self]
  · exact List.set_eq_of_length_le h

theorem holds_iff (x : Slot) (id : Byte) (ch : BitVec 5) :
    x.holds id ch = true ↔ x.used = true ∧ x.id = id ∧ x.ch = ch := by
  simp [Slot.holds, and_assoc]

/-- The scan finds exactly the first slot that holds the key (R191). -/
theorem lookup_eq_some_iff (s : State) (id : Byte) (ch : BitVec 5) (k : Nat) :
    lookup s id ch = some k ↔ FirstHolder s id ch k := by
  unfold lookup FirstHolder
  rw [List.findIdx?_eq_some_iff_getElem]
  constructor
  · rintro ⟨hk, h1, h2⟩
    rw [holds_iff] at h1
    rw [slotAt_of_lt hk]
    refine ⟨hk, h1.1, h1.2.1, h1.2.2, fun j hj => ?_⟩
    rw [slotAt_of_lt (by omega : j < s.slots.length), ← holds_iff]
    exact h2 j hj
  · rintro ⟨hk, h1, h2, h3, h4⟩
    rw [slotAt_of_lt hk] at h1 h2 h3
    refine ⟨hk, (holds_iff _ _ _).2 ⟨h1, h2, h3⟩, fun j hj => ?_⟩
    have := h4 j hj
    rwa [slotAt_of_lt (by omega : j < s.slots.length), ← holds_iff] at this

theorem lookup_eq_none_iff (s : State) (id : Byte) (ch : BitVec 5) : lookup s id ch = none ↔ Unseen s id ch := by
  unfold lookup Unseen
  rw [List.findIdx?_eq_none_iff]
  constructor
  · intro h j hj
    rw [slotAt_of_lt hj, ← holds_iff, h _ (List.getElem_mem hj)]
    simp
  · intro h x hx
    obtain ⟨j, hj, rfl⟩ := List.getElem_of_mem hx
    have := h j hj
    rw [slotAt_of_lt hj, ← holds_iff] at this
    simpa using this

theorem firstFree_eq_some_iff (s : State) (f : Nat) : firstFree s = some f ↔
    f < s.slots.length ∧ (s.slotAt f).used = false ∧ ∀ j < f, (s.slotAt j).used = true := by
  unfold firstFree
  rw [List.findIdx?_eq_some_iff_getElem]
  constructor
  · rintro ⟨hk, h1, h2⟩
    refine ⟨hk, by rw [slotAt_of_lt hk]; simpa using h1, fun j hj => ?_⟩
    rw [slotAt_of_lt (by omega : j < s.slots.length)]
    simpa using h2 j hj
  · rintro ⟨hk, h1, h2⟩
    rw [slotAt_of_lt hk] at h1
    refine ⟨hk, by simp [h1], fun j hj => ?_⟩
    have := h2 j hj
    rw [slotAt_of_lt (by omega : j < s.slots.length)] at this
    simp [this]

theorem firstFree_eq_none_iff (s : State) : firstFree s = none ↔ ∀ j < s.slots.length, (s.slotAt j).used = true := by
  unfold firstFree
  rw [List.findIdx?_eq_none_iff]
  constructor
  · intro h j hj
    rw [slotAt_of_lt hj]
    simpa using h _ (List.getElem_mem hj)
  · intro h x hx
    obtain ⟨j, hj, rfl⟩ := List.getElem_of_mem hx
    have := h j hj
    rw [slotAt_of_lt hj] at this
    simp [this]

/-- The state after an insertion (R196). -/
def inserted (f : Nat) (x : Slot) (s : State) : State := { setSlot f x s with tableCount := s.tableCount + 1#8 }

theorem filter_delta {s : State} {id : Byte} {ch : BitVec 5} {t : Int} {k : Nat} (hk : FirstHolder s id ch k)
    (ht : (s.slotAt k).tracked = true) (hd : 120 < (t - (s.slotAt k).last.toInt).natAbs) :
    filter id ch t s = (some .delta, s) := by
  simp [filter, (lookup_eq_some_iff s id ch k).2 hk, filterFound, ht, deltaMax, deltaOf, hd]

theorem filter_update {s : State} {id : Byte} {ch : BitVec 5} {t : Int} {k : Nat} (hk : FirstHolder s id ch k)
    (ht : (s.slotAt k).tracked = true) (hd : (t - (s.slotAt k).last.toInt).natAbs ≤ 120) :
    filter id ch t s = (none, setSlot k { s.slotAt k with last := BitVec.ofInt 16 t } s) := by
  simp [filter, (lookup_eq_some_iff s id ch k).2 hk, filterFound, ht, deltaMax, deltaOf, hd]

theorem filter_track {s : State} {id : Byte} {ch : BitVec 5} {t : Int} {k : Nat} (hk : FirstHolder s id ch k)
    (ht : (s.slotAt k).tracked = false) :
    filter id ch t s = (none, setSlot k { s.slotAt k with tracked := true, last := BitVec.ofInt 16 t } s) := by
  simp [filter, (lookup_eq_some_iff s id ch k).2 hk, filterFound, ht]

theorem filter_insert {s : State} {id : Byte} {ch : BitVec 5} {t : Int} {f : Nat} (hu : Unseen s id ch)
    (hf : firstFree s = some f) : filter id ch t s = (none, inserted f (freshSlot id ch t) s) := by
  simp [filter, (lookup_eq_none_iff s id ch).2 hu, filterUnseen, hf, inserted]

theorem filter_full {s : State} {id : Byte} {ch : BitVec 5} {t : Int} (hu : Unseen s id ch)
    (hf : firstFree s = none) : filter id ch t s = (some .tableFull, s) := by
  simp [filter, (lookup_eq_none_iff s id ch).2 hu, filterUnseen, hf]

/-- Everything the filter can do (R191). -/
theorem filter_cases (s : State) (id : Byte) (ch : BitVec 5) (t : Int) :
    (∃ k, FirstHolder s id ch k ∧ (s.slotAt k).tracked = true ∧ 120 < (t - (s.slotAt k).last.toInt).natAbs ∧
      filter id ch t s = (some .delta, s)) ∨
    (∃ k, FirstHolder s id ch k ∧ (s.slotAt k).tracked = true ∧ (t - (s.slotAt k).last.toInt).natAbs ≤ 120 ∧
      filter id ch t s = (none, setSlot k { s.slotAt k with last := BitVec.ofInt 16 t } s)) ∨
    (∃ k, FirstHolder s id ch k ∧ (s.slotAt k).tracked = false ∧
      filter id ch t s = (none, setSlot k { s.slotAt k with tracked := true, last := BitVec.ofInt 16 t } s)) ∨
    (∃ f, Unseen s id ch ∧ firstFree s = some f ∧
      filter id ch t s = (none, inserted f (freshSlot id ch t) s)) ∨
    (Unseen s id ch ∧ firstFree s = none ∧ filter id ch t s = (some .tableFull, s)) := by
  cases hl : lookup s id ch with
  | some k =>
    have hk := (lookup_eq_some_iff s id ch k).1 hl
    cases ht : (s.slotAt k).tracked with
    | true =>
      rcases Nat.lt_or_ge 120 (t - (s.slotAt k).last.toInt).natAbs with hd | hd
      · exact .inl ⟨k, hk, ht, hd, filter_delta hk ht hd⟩
      · exact .inr (.inl ⟨k, hk, ht, hd, filter_update hk ht hd⟩)
    | false => exact .inr (.inr (.inl ⟨k, hk, ht, filter_track hk ht⟩))
  | none =>
    have hu := (lookup_eq_none_iff s id ch).1 hl
    cases hf : firstFree s with
    | some f => exact .inr (.inr (.inr (.inl ⟨f, hu, rfl, filter_insert hu hf⟩)))
    | none => exact .inr (.inr (.inr (.inr ⟨hu, rfl, filter_full hu hf⟩)))

/-- The filter writes the table and nothing else. -/
theorem filter_frame (s : State) (id : Byte) (ch : BitVec 5) (t : Int) :
    (filter id ch t s).2 = { s with slots := (filter id ch t s).2.slots, tableCount := (filter id ch t s).2.tableCount } := by
  rcases filter_cases s id ch t with ⟨k, _, _, _, h⟩ | ⟨k, _, _, _, h⟩ | ⟨k, _, _, h⟩ | ⟨f, _, _, h⟩ | ⟨_, _, h⟩ <;>
    rw [h] <;> rfl

/-- A rejection writes nothing (R193, R197). -/
theorem filter_reject {s : State} {id : Byte} {ch : BitVec 5} {t : Int} {reason : Reason} {u : State}
    (h : filter id ch t s = (some reason, u)) : u = s ∧ (reason = .delta ∨ reason = .tableFull) := by
  rcases filter_cases s id ch t with ⟨k, _, _, _, h'⟩ | ⟨k, _, _, _, h'⟩ | ⟨k, _, _, h'⟩ | ⟨f, _, _, h'⟩ | ⟨_, _, h'⟩ <;>
    rw [h'] at h <;> simp at h <;> obtain ⟨rfl, rfl⟩ := h <;> simp

theorem filterSlot_of_holder {s : State} {id : Byte} {ch : BitVec 5} {k : Nat} (h : FirstHolder s id ch k) :
    filterSlot s id ch = some k := by
  simp [filterSlot, (lookup_eq_some_iff s id ch k).2 h]

theorem filterSlot_of_unseen {s : State} {id : Byte} {ch : BitVec 5} (h : Unseen s id ch) :
    filterSlot s id ch = firstFree s := by
  simp [filterSlot, (lookup_eq_none_iff s id ch).2 h]

theorem not_unseen_of_holder {s : State} {id : Byte} {ch : BitVec 5} {k : Nat} (h : FirstHolder s id ch k) :
    ¬Unseen s id ch :=
  fun hu => hu k h.1 ⟨h.2.1, h.2.2.1, h.2.2.2.1⟩

/-- Whatever the filter answers, no slot but its own changes and the table keeps its size (R193 to R197). -/
theorem filter_other_slots (s : State) (id : Byte) (ch : BitVec 5) (t : Int) :
    (filter id ch t s).2.slots.length = s.slots.length ∧
    ∀ j, filterSlot s id ch ≠ some j → (filter id ch t s).2.slotAt j = s.slotAt j := by
  rcases filter_cases s id ch t with ⟨k, _, _, _, h⟩ | ⟨k, hk, _, _, h⟩ | ⟨k, hk, _, h⟩ | ⟨f, hu, hf, h⟩ | ⟨_, _, h⟩ <;>
    rw [h]
  case inr.inl | inr.inr.inl =>
    refine ⟨by simp, fun j hj => slotAt_setSlot_ne _ ?_⟩
    rintro rfl
    exact hj (filterSlot_of_holder hk)
  case inr.inr.inr.inl =>
    refine ⟨by simp [inserted], fun j hj => slotAt_setSlot_ne (s := s) _ ?_⟩
    rintro rfl
    exact hj ((filterSlot_of_unseen hu).trans hf)
  all_goals exact ⟨rfl, fun _ _ => rfl⟩

/-- What an acceptance writes: the filter's slot, and TABLE_COUNT exactly for an unseen key (R194 to R196). -/
theorem filter_accept {s u : State} {id : Byte} {ch : BitVec 5} {t : Int} (h : filter id ch t s = (none, u)) :
    ∃ k, filterSlot s id ch = some k ∧ k < s.slots.length ∧ (∀ j, j ≠ k → u.slotAt j = s.slotAt j) ∧
      (Unseen s id ch → u.tableCount = s.tableCount + 1#8) ∧ (¬Unseen s id ch → u.tableCount = s.tableCount) := by
  have ho := (filter_other_slots s id ch t).2
  rw [h] at ho
  have other : ∀ k, filterSlot s id ch = some k → ∀ j, j ≠ k → u.slotAt j = s.slotAt j := fun k hk j hj =>
    ho j (by rw [hk]; exact fun e => hj (Option.some.inj e).symm)
  rcases filter_cases s id ch t with ⟨k, _, _, _, h'⟩ | ⟨k, hk, _, _, h'⟩ | ⟨k, hk, _, h'⟩ | ⟨f, hu, hf, h'⟩ |
    ⟨_, _, h'⟩ <;> rw [h'] at h
  case inr.inl | inr.inr.inl =>
    have hs := filterSlot_of_holder hk
    obtain rfl := (Prod.mk.inj h).2
    exact ⟨k, hs, hk.1, other k hs, fun hu => absurd hu (not_unseen_of_holder hk), fun _ => rfl⟩
  case inr.inr.inr.inl =>
    have hs := (filterSlot_of_unseen hu).trans hf
    obtain rfl := (Prod.mk.inj h).2
    exact ⟨f, hs, ((firstFree_eq_some_iff s f).1 hf).1, other f hs, fun _ => rfl, fun hn => absurd hu hn⟩
  all_goals cases (Prod.mk.inj h).1

end Sys2Proof.Machine
end

