-- ==== Sys2Proof/Laws/Commands.lean ====
section
/-!
SUPPORT. Everything a DECODE can do: one equation per way through the stages of R224, and the case analysis over them.
-/

namespace Sys2Proof.Machine

/-- The way to the line decoder depends on NROWS and row memory only. -/
theorem ReachesLineDecoder.congr {s u : State} {r : Nat} (h : ReachesLineDecoder s r) (hn : u.nrows = s.nrows)
    (hr : u.rows = s.rows) : ReachesLineDecoder u r := by
  unfold ReachesLineDecoder
  rw [locate_congr_rows hn hr, rowAt_congr hr]
  exact h

/-- The way to the filter depends on NROWS and row memory only. -/
theorem ReachesFilter.congr {s u : State} {r : Nat} {x : Fields} (h : ReachesFilter s r x) (hn : u.nrows = s.nrows)
    (hr : u.rows = s.rows) : ReachesFilter u r x :=
  ⟨h.1.congr hn hr, by rw [rowAt_congr hr]; exact h.2⟩

theorem decodeEffect_noRow {s : State} (h : locate s = none) :
    decodeEffect s = finish .noCandidate .noRow 0 [] none s := by
  simp [decodeEffect, h]

theorem decodeEffect_preamble {s : State} {r : Nat} (h : locate s = some r) (hp : preambleOK (s.rowAt r) = false) :
    decodeEffect s = finish .noCandidate .preamble r [] none s := by
  simp [decodeEffect, h, decodeRow, hp]

theorem decodeEffect_sentinel {s : State} {r : Nat} (h : locate s = some r) (hp : preambleOK (s.rowAt r) = true)
    (hs : sentinelOK (s.rowAt r) = false) : decodeEffect s = finish .noCandidate .sentinel r [] none s := by
  simp [decodeEffect, h, decodeRow, hp, hs]

theorem decodeEffect_line {s : State} {r : Nat} (h : ReachesLineDecoder s r) :
    decodeEffect s = decodeFrame r (lineDecode (s.rowAt r)) s := by
  obtain ⟨h, hp, hs⟩ := h
  simp [decodeEffect, h, decodeRow, hp, hs]

theorem decodeEffect_invalid {s : State} {r : Nat} {reason : Reason} (h : ReachesLineDecoder s r)
    (hv : validate (lineDecode (s.rowAt r)) = .error reason) :
    decodeEffect s = finish .sanityFailure reason r (lineDecode (s.rowAt r)) none s := by
  rw [decodeEffect_line h]
  simp [decodeFrame, hv]

theorem decodeEffect_reject {s u : State} {r : Nat} {x : Fields} {reason : Reason} (h : ReachesFilter s r x)
    (hf : filter x.id x.ch x.t s = (some reason, u)) :
    decodeEffect s = finish .sanityFailure reason r (lineDecode (s.rowAt r)) none u := by
  rw [decodeEffect_line h.1]
  simp [decodeFrame, h.2, hf]

theorem decodeEffect_accept {s u : State} {r : Nat} {x : Fields} (h : ReachesFilter s r x)
    (hf : filter x.id x.ch x.t s = (none, u)) :
    decodeEffect s = finish .accepted .none r (lineDecode (s.rowAt r)) (some x) u := by
  rw [decodeEffect_line h.1]
  simp [decodeFrame, h.2, hf]

/-- Everything DECODE can do (R224). -/
theorem decodeEffect_cases (s : State) :
    (locate s = none ∧ decodeEffect s = finish .noCandidate .noRow 0 [] none s) ∨
    (∃ r, locate s = some r ∧ preambleOK (s.rowAt r) = false ∧
      decodeEffect s = finish .noCandidate .preamble r [] none s) ∨
    (∃ r, locate s = some r ∧ preambleOK (s.rowAt r) = true ∧ sentinelOK (s.rowAt r) = false ∧
      decodeEffect s = finish .noCandidate .sentinel r [] none s) ∨
    (∃ r reason, ReachesLineDecoder s r ∧ validate (lineDecode (s.rowAt r)) = .error reason ∧
      (reason = .trailer ∨ reason = .bcd ∨ reason = .tempRange) ∧
      decodeEffect s = finish .sanityFailure reason r (lineDecode (s.rowAt r)) none s) ∨
    (∃ r x reason, ReachesFilter s r x ∧ filter x.id x.ch x.t s = (some reason, s) ∧
      (reason = .delta ∨ reason = .tableFull) ∧
      decodeEffect s = finish .sanityFailure reason r (lineDecode (s.rowAt r)) none s) ∨
    (∃ r x u, ReachesFilter s r x ∧ filter x.id x.ch x.t s = (none, u) ∧
      decodeEffect s = finish .accepted .none r (lineDecode (s.rowAt r)) (some x) u) := by
  cases hl : locate s with
  | none => exact .inl ⟨rfl, decodeEffect_noRow hl⟩
  | some r =>
    refine .inr ?_
    cases hp : preambleOK (s.rowAt r) with
    | false => exact .inl ⟨r, rfl, hp, decodeEffect_preamble hl hp⟩
    | true =>
      refine .inr ?_
      cases hs : sentinelOK (s.rowAt r) with
      | false => exact .inl ⟨r, rfl, hp, hs, decodeEffect_sentinel hl hp hs⟩
      | true =>
        refine .inr ?_
        have hr : ReachesLineDecoder s r := ⟨hl, hp, hs⟩
        cases hv : validate (lineDecode (s.rowAt r)) with
        | error reason => exact .inl ⟨r, reason, hr, hv, validate_error_reason hv, decodeEffect_invalid hr hv⟩
        | ok x =>
          refine .inr ?_
          have hx : ReachesFilter s r x := ⟨hr, hv⟩
          cases hf : filter x.id x.ch x.t s with
          | mk o u =>
            cases o with
            | some reason =>
              obtain ⟨rfl, hreason⟩ := filter_reject hf
              exact .inl ⟨r, x, reason, hx, hf, hreason, decodeEffect_reject hx hf⟩
            | none => exact .inr ⟨r, x, u, hx, hf, decodeEffect_accept hx hf⟩

/-- DECODE writes the result registers and the device table, and nothing else (R223). -/
theorem decodeEffect_frame (s : State) : ∃ r0 r1 f0 f1 f2 f3 slots count, decodeEffect s =
    { s with result0 := r0, result1 := r1, frame0 := f0, frame1 := f1, frame2 := f2, frame3 := f3, slots := slots,
             tableCount := count } := by
  rcases decodeEffect_cases s with ⟨_, h⟩ | ⟨r, _, _, h⟩ | ⟨r, _, _, _, h⟩ | ⟨r, q, _, _, _, h⟩ |
    ⟨r, x, q, _, _, _, h⟩ | ⟨r, x, u, _, hf, h⟩
  case inr.inr.inr.inr.inr =>
    have hu := filter_frame s x.id x.ch x.t
    rw [hf] at hu
    simp only at hu
    rw [h, hu]
    exact ⟨_, _, _, _, _, _, _, _, rfl⟩
  all_goals rw [h]; exact ⟨_, _, _, _, _, _, _, _, rfl⟩

@[simp] theorem exec_nop (s : State) : exec .nop s = .next (complete s) := rfl
@[simp] theorem exec_decode (s : State) : exec .decode s = .next (complete (decodeEffect s)) := rfl
@[simp] theorem exec_clearTable (s : State) : exec .clearTable s = .next (complete (freeTable s)) := rfl

end Sys2Proof.Machine
end

