-- ==== Sys2Proof/Laws/Decode.lean ====
section
/-!
SUPPORT. The decoder's rows do not overlap, and what the decoder answers for every word.
-/

namespace Sys2Proof

/-- No word is selected by two rows: their patterns differ under full masks. -/
theorem opcodeTable_disjoint : opcodeTable.Pairwise fun a b => a.mask &&& b.mask &&& (a.pattern ^^^ b.pattern) ≠ 0#32 := by
  decide

theorem selects_iff (p w : Word) (i : Instr) : (OpcodeRow.mk 0xFFFFFFFF#32 p i).selects w = decide (w = p) := by
  have h : w &&& 0xFFFFFFFF#32 = w := by
    rw [show (0xFFFFFFFF#32 : Word) = BitVec.allOnes 32 by decide, BitVec.and_allOnes]
  simp only [OpcodeRow.selects, h]
  rfl

/-- The decoder's answer for every word (R91, R92). -/
theorem decodeWord_eq (w : Word) : decodeWord w =
    if w = 0x00000000#32 then .ok .nop else if w = 0x00000001#32 then .ok .decode
    else if w = 0x00000002#32 then .ok .clearTable
    else if cmdRsvOk w then .error .reservedOpcode else .error .reservedBits := by
  unfold decodeWord opcodeTable
  simp only [List.find?, selects_iff]
  by_cases h0 : w = 0x00000000#32
  · simp [h0]
  by_cases h1 : w = 0x00000001#32
  · simp [h1]
  by_cases h2 : w = 0x00000002#32
  · simp [h2]
  simp [h0, h1, h2]

theorem wordOfBytes_bytes (w : Word) : wordOfBytes (w.extractLsb' 0 8) (w.extractLsb' 8 8) (w.extractLsb' 16 8)
    (w.extractLsb' 24 8) = w := by
  apply BitVec.eq_of_getLsbD_eq
  intro k hk
  simp only [wordOfBytes, BitVec.getLsbD_append, BitVec.getLsbD_extractLsb']
  rcases Nat.lt_or_ge k 8 with h | h
  · simp [h]
  rcases Nat.lt_or_ge k 16 with h2 | h2
  · simp [show ¬k < 8 by omega, show k - 8 < 8 by omega, show 8 + (k - 8) = k by omega]
  rcases Nat.lt_or_ge k 24 with h3 | h3
  · simp [show ¬k < 8 by omega, show ¬k - 8 < 8 by omega, show k - 8 - 8 < 8 by omega,
      show 16 + (k - 8 - 8) = k by omega]
  · simp [show ¬k < 8 by omega, show ¬k - 8 < 8 by omega, show ¬k - 8 - 8 < 8 by omega,
      show k - 8 - 8 - 8 < 8 by omega, show 24 + (k - 8 - 8 - 8) = k by omega]

/-- The bytes of a word decode as the word does. -/
theorem decodeBytes_bytesOfWord (w : Word) (rest : List Byte) : decodeBytes (bytesOfWord w ++ rest) =
    match decodeWord w with
    | .ok i => .ok (i, rest)
    | .error e => .error e := by
  cases h : decodeWord w <;>
    simp only [bytesOfWord, List.cons_append, List.nil_append, decodeBytes, wordOfBytes_bytes, h]

/-- The table's question about a 32-bit word is the decoder's answer. -/
theorem decodeTableWord_toNat (w : Word) : decodeTableWord 32 w.toNat =
    match decodeWord w with
    | .ok i => some i
    | .error _ => none := by
  have h := decodeBytes_bytesOfWord w []
  rw [List.append_nil] at h
  unfold decodeTableWord
  rw [if_pos ⟨Nat.le_refl _, w.isLt⟩, BitVec.ofNat_toNat, BitVec.setWidth_eq, h]
  cases decodeWord w <;> rfl

end Sys2Proof
end

