-- ==== Sys2Proof/Laws/RowMemory.lean ====
section
/-!
SUPPORT. Row memory keeps its shape under every operation that writes it, and reset's row memory has it; reading after writing.
-/

namespace Sys2Proof.Machine

theorem RowMemory.wf_iff (n : Nat) (m : RowMemory) :
    RowMemory.wf n m = true ↔ m.length = n ∧ ∀ row ∈ m, row.data.length = 8 := by
  simp [RowMemory.wf]

theorem RowMemory.wf_modify {n : Nat} {m : RowMemory} (r : Nat) (f : Row → Row) (h : RowMemory.wf n m = true)
    (hf : ∀ row, (f row).data.length = row.data.length) : RowMemory.wf n (m.modify r f) = true := by
  rw [RowMemory.wf_iff] at h ⊢
  refine ⟨by simpa using h.1, fun row hrow => ?_⟩
  obtain ⟨k, hk, rfl⟩ := List.getElem_of_mem hrow
  rw [List.length_modify] at hk
  rw [List.getElem_modify]
  split
  · rw [hf]; exact h.2 _ (List.getElem_mem _)
  · exact h.2 _ (List.getElem_mem _)

theorem drawnRows_wf (n k : Nat) : RowMemory.wf n (drawnRows n k) = true := by
  rw [RowMemory.wf_iff]
  refine ⟨by simp [drawnRows], fun row hrow => ?_⟩
  simp only [drawnRows, List.mem_map] at hrow
  obtain ⟨r, _, rfl⟩ := hrow
  simp

theorem reset_rows_wf : RowMemory.wf State.reset.param.nRows State.reset.rows = true :=
  drawnRows_wf _ _

theorem writeRowLen_wf {s : State} (r : Nat) (v : Word) (h : RowMemory.wf s.param.nRows s.rows = true) :
    RowMemory.wf s.param.nRows (writeRowLen r v s).rows = true :=
  RowMemory.wf_modify _ _ h fun _ => rfl

theorem writeRowData_wf {s : State} (r w : Nat) (v : Word) (h : RowMemory.wf s.param.nRows s.rows = true) :
    RowMemory.wf s.param.nRows (writeRowData r w v s).rows = true :=
  RowMemory.wf_modify _ _ h fun _ => by simp

theorem resetBlock_wf (s : State) : RowMemory.wf s.param.nRows (resetBlock s).rows = true :=
  drawnRows_wf _ _

theorem rowAt_of_lt {s : State} {r : Nat} (h : r < s.rows.length) : s.rowAt r = s.rows[r] := by
  simp [State.rowAt, State.row?, h]

theorem rowAt_of_ge {s : State} {r : Nat} (h : s.rows.length ≤ r) : s.rowAt r = ⟨0#16, []⟩ := by
  simp [State.rowAt, State.row?, h]

theorem rowAt_modify (s : State) (r q : Nat) (f : Row → Row) :
    ({ s with rows := s.rows.modify r f } : State).rowAt q =
      if q = r ∧ r < s.rows.length then f (s.rowAt r) else s.rowAt q := by
  simp only [State.rowAt, State.row?, List.getElem?_modify]
  by_cases hq : r = q
  · subst hq
    rcases Nat.lt_or_ge r s.rows.length with h | h <;> simp [h, Nat.not_lt.2]
  · simp [hq, Ne.symm hq]

theorem rowAt_writeRowLen (s : State) (r q : Nat) (v : Word) : (writeRowLen r v s).rowAt q =
    if q = r ∧ r < s.rows.length then { s.rowAt r with len := v.setWidth 16 } else s.rowAt q :=
  rowAt_modify s r q _

theorem rowAt_writeRowData (s : State) (r w q : Nat) (v : Word) : (writeRowData r w v s).rowAt q =
    if q = r ∧ r < s.rows.length then { s.rowAt r with data := (s.rowAt r).data.set w v } else s.rowAt q :=
  rowAt_modify s r q _

/-- Raw byte `j` after word `w` of the row is written (R33, R67). -/
theorem rowByte_set (row : Row) (w j : Nat) (v : Word) : rowByte { row with data := row.data.set w v } j =
    if j / 4 = w ∧ w < row.data.length then wordByte v (j % 4) else rowByte row j := by
  simp only [rowByte, List.getD_eq_getElem?_getD, List.getElem?_set]
  by_cases h : w = j / 4
  · subst h
    rcases Nat.lt_or_ge (j / 4) row.data.length with hl | hl <;> simp [hl, Nat.not_lt.2]
  · simp [h, Ne.symm h]

theorem rowAt_drawnRows_len (n k r : Nat) (s : State) (h : s.rows = drawnRows n k) : (s.rowAt r).len = 0#16 := by
  simp only [State.rowAt, State.row?, h, drawnRows, List.getElem?_map]
  rcases Nat.lt_or_ge r n with hl | hl
  · simp [List.getElem?_range hl]
  · simp [hl]

end Sys2Proof.Machine
end

