-- ==== Sys2Proof/Laws/Bus.lean ====
section
/-!
SUPPORT. Everything a bus transaction and a step can do.
-/

namespace Sys2Proof.Machine

/-! ### the address map -/

theorem regAt_cmd (p : Params) : regAt p 0x004 = some .cmd := rfl
theorem regAt_status (p : Params) : regAt p 0x008 = some .status := rfl
theorem regAt_nrows (p : Params) : regAt p 0x014 = some .nrows := rfl
theorem regAt_param (p : Params) : regAt p 0x000 = some .param := rfl

theorem slotRegAt_spec {d : Nat} {o : Reg} (h : slotRegAt d = some o) :
    (d = 8 * (d / 8) ∧ o = .slotKey (d / 8)) ∨ (d = 8 * (d / 8) + 4 ∧ o = .slotTemp (d / 8)) := by
  unfold slotRegAt at h
  split at h
  · left; refine ⟨by omega, (Option.some.inj h).symm⟩
  · split at h
    · right; refine ⟨by omega, (Option.some.inj h).symm⟩
    · cases h

theorem rowRegAt_spec {d : Nat} {o : Reg} (h : rowRegAt d = some o) :
    (d = 0x40 * (d / 0x40) ∧ o = .rowLen (d / 0x40)) ∨
    ∃ w < 8, d = 0x40 * (d / 0x40) + 0x20 + 4 * w ∧ o = .rowData (d / 0x40) w := by
  unfold rowRegAt at h
  split at h
  · left; exact ⟨by omega, (Option.some.inj h).symm⟩
  · split at h
    case isTrue hc =>
      right
      exact ⟨(d % 0x40 - 0x20) / 4, by omega, by omega, (Option.some.inj h).symm⟩
    case isFalse => cases h

/-- A mapped offset is the offset of the register found there. -/
theorem regAt_offset {p : Params} {off : Nat} {o : Reg} (h : regAt p off = some o) : o.offset = off := by
  unfold regAt at h
  split at h; · obtain rfl := Option.some.inj h; simp only [Reg.offset]; omega
  split at h; · obtain rfl := Option.some.inj h; simp only [Reg.offset]; omega
  split at h; · obtain rfl := Option.some.inj h; simp only [Reg.offset]; omega
  split at h; · obtain rfl := Option.some.inj h; simp only [Reg.offset]; omega
  split at h; · obtain rfl := Option.some.inj h; simp only [Reg.offset]; omega
  split at h; · obtain rfl := Option.some.inj h; simp only [Reg.offset]; omega
  split at h; · obtain rfl := Option.some.inj h; simp only [Reg.offset]; omega
  split at h
  · split at h
    · obtain rfl := Option.some.inj h; simp only [Reg.offset]; omega
    · cases h
  split at h
  · rcases slotRegAt_spec h with ⟨h1, rfl⟩ | ⟨h1, rfl⟩ <;> simp only [Reg.offset] <;> omega
  split at h
  · rcases rowRegAt_spec h with ⟨h1, rfl⟩ | ⟨w, _, h1, rfl⟩ <;> simp only [Reg.offset] <;> omega
  · cases h

/-! ### whose turn it is -/

theorem engineTurn_eq_some_iff (s : State) (i : Instr) :
    engineTurn s = some i ↔ s.pending = some i ∧ (s.wait = 0 ∨ s.host = []) := by
  unfold engineTurn
  cases h : s.pending with
  | none => simp
  | some j =>
    by_cases hc : s.wait = 0 ∨ s.host = []
    · simp [hc]
    · simp [hc]

theorem engineTurn_eq_none_iff (s : State) :
    engineTurn s = none ↔ s.pending = none ∨ (s.wait ≠ 0 ∧ s.host ≠ []) := by
  unfold engineTurn
  cases h : s.pending with
  | none => simp
  | some j =>
    by_cases hc : s.wait = 0 ∨ s.host = []
    · simp [hc]; tauto
    · simp [hc]; tauto

theorem step_engine {s : State} {i : Instr} (h : engineTurn s = some i) : step s = exec i s := by
  simp [step, h]

theorem step_host {s : State} (h : engineTurn s = none) : step s = .next (hostTurn s) := by
  simp [step, h]

theorem step_event {s : State} {op : HostOp} {rest : List HostOp} (h : engineTurn s = none)
    (ho : s.host = op :: rest) : step s = .next (hostEvent op rest s) := by
  rw [step_host h, hostTurn, ho]

/-- One step of a machine's run. -/
theorem core_run_succ_of (M : Host.Core) {k : Nat} {s t : M.State} (h : M.step s = .next t) :
    M.run (k + 1) s = M.run k t := by
  simp [Host.Core.run, h]

/-- One step of this machine's run. -/
theorem core_run_succ {k : Nat} {s t : State} (h : step s = .next t) :
    Sys2Proof.core.run (k + 1) s = Sys2Proof.core.run k t :=
  core_run_succ_of Sys2Proof.core h

/-! ### transactions -/

theorem alignedWord_iff (addr : Offset) (n : Size) : alignedWord addr n = true ↔ n = .word ∧ addr.toNat % 4 = 0 := by
  simp [alignedWord]

theorem alignedWord_eq_false_iff (addr : Offset) (n : Size) :
    alignedWord addr n = false ↔ n ≠ .word ∨ addr.toNat % 4 ≠ 0 := by
  rw [Bool.eq_false_iff, Ne, alignedWord_iff]; tauto

/-- A read changes at most ERR_ACCESS (R70). -/
theorem memRead_cases (addr : Offset) (n : Size) (s : State) :
    (∃ o, alignedWord addr n = true ∧ regAt s.param addr.toNat = some o ∧ memRead addr n s = (readReg s o, s)) ∨
    ((alignedWord addr n = false ∨ regAt s.param addr.toNat = none) ∧ memRead addr n s = (0#32, raise .access s)) := by
  cases ha : alignedWord addr n with
  | false => right; exact ⟨.inl rfl, by simp [memRead, ha]⟩
  | true =>
    cases hr : regAt s.param addr.toNat with
    | none => right; exact ⟨.inr rfl, by simp [memRead, ha, hr]⟩
    | some o => left; exact ⟨o, rfl, rfl, by simp [memRead, ha, hr]⟩

/-- What one write can do to the state (R63 to R66). -/
inductive WriteEffect (addr : Offset) (n : Size) (v : Word) (s : State) : State → Prop where
  | raised (e : BusError) : WriteEffect addr n v s (raise e s)
  | issued (i : Instr) (hn : n = .word) (ha : addr = 0x004#13) (hb : s.busy = false) (hd : decodeWord v = .ok i) :
      WriteEffect addr n v s (issue i s)
  | status (hn : n = .word) (ha : addr = 0x008#13) (hb : s.busy = false) : WriteEffect addr n v s (writeStatus v s)
  | nrows (hn : n = .word) (ha : addr = 0x014#13) (hb : s.busy = false) (hv : v.toNat ≤ s.param.nRows) :
      WriteEffect addr n v s { s with nrows := v.setWidth 7 }
  | rowLen (r : Nat) (hn : n = .word) (hr : regAt s.param addr.toNat = some (.rowLen r)) (hb : s.busy = false) :
      WriteEffect addr n v s (writeRowLen r v s)
  | rowData (r w : Nat) (hn : n = .word) (hr : regAt s.param addr.toNat = some (.rowData r w)) (hb : s.busy = false) :
      WriteEffect addr n v s (writeRowData r w v s)

theorem offset_eq_of_regAt {p : Params} {addr : Offset} {o : Reg} {a : Offset} (h : regAt p addr.toNat = some o)
    (ho : o.offset = a.toNat) : addr = a :=
  BitVec.eq_of_toNat_eq (by rw [← regAt_offset h, ho])

theorem memWrite_effect (addr : Offset) (n : Size) (v : Word) (s : State) :
    WriteEffect addr n v s (memWrite addr n v s) := by
  unfold memWrite
  split
  case isFalse => exact .raised .access
  case isTrue ha =>
    obtain ⟨hn, _⟩ := (alignedWord_iff _ _).1 ha
    split
    case isTrue => exact .raised .busy
    case isFalse hb =>
      have hb : s.busy = false := by simpa using hb
      split
      case h_2 => exact .raised .access
      case h_1 o hr =>
        cases o <;> simp only [writeReg]
        case cmd =>
          unfold writeCmd
          split
          case h_1 i hd => exact .issued i hn (offset_eq_of_regAt hr rfl) hb hd
          case h_2 => exact .raised .illegal
        case status => exact .status hn (offset_eq_of_regAt hr rfl) hb
        case nrows =>
          unfold writeNrows
          split
          case isTrue hv => exact .nrows hn (offset_eq_of_regAt hr rfl) hb hv
          case isFalse => exact .raised .access
        case rowLen r => exact .rowLen r hn hr hb
        case rowData r w => exact .rowData r w hn hr hb
        all_goals exact .raised .access

/-! ### steps -/

/-- Everything one step can do. -/
inductive StepEffect (s : State) : State → Prop where
  | nop (h : engineTurn s = some .nop) : StepEffect s (complete s)
  | decode (h : engineTurn s = some .decode) : StepEffect s (complete (decodeEffect s))
  | clearTable (h : engineTurn s = some .clearTable) : StepEffect s (complete (freeTable s))
  | idle (h : engineTurn s = none) (hh : s.host = []) : StepEffect s s
  | read (addr : Offset) (n : Size) (rest : List HostOp) (v : Word) (h : engineTurn s = none)
      (hh : s.host = .read addr n :: rest) : StepEffect s (reply v (passEvent rest s))
  | readError (addr : Offset) (n : Size) (rest : List HostOp) (h : engineTurn s = none)
      (hh : s.host = .read addr n :: rest) : StepEffect s (reply 0#32 (raise .access (passEvent rest s)))
  | write (addr : Offset) (n : Size) (v : Word) (rest : List HostOp) (t : State) (h : engineTurn s = none)
      (hh : s.host = .write addr n v :: rest) (hw : WriteEffect addr n v (passEvent rest s) t) : StepEffect s t
  | poll (rest after : List HostOp) (h : engineTurn s = none) (hh : s.host = .poll :: rest) :
      StepEffect s (reply (statusWord s) (passEvent after s))
  | reset (rest : List HostOp) (h : engineTurn s = none) (hh : s.host = .reset :: rest) :
      StepEffect s (resetBlock (passEvent rest s))

theorem step_effect {s t : State} (h : step s = .next t) : StepEffect s t := by
  cases he : engineTurn s with
  | some i =>
    rw [step_engine he] at h
    cases i <;> simp only [exec_nop, exec_decode, exec_clearTable, Host.Outcome.next.injEq] at h <;> subst h
    · exact .nop he
    · exact .decode he
    · exact .clearTable he
  | none =>
    rw [step_host he] at h
    obtain rfl : hostTurn s = t := by simpa using h
    unfold hostTurn
    split
    case h_1 hh => exact .idle he hh
    case h_2 op rest hh =>
      cases op with
      | read addr n =>
        simp only [hostEvent]
        rcases memRead_cases addr n (passEvent rest s) with ⟨o, _, _, hm⟩ | ⟨_, hm⟩ <;> rw [hm]
        · exact .read addr n rest _ he hh
        · exact .readError addr n rest he hh
      | write addr n v => exact .write addr n v rest _ he hh (memWrite_effect ..)
      | poll => exact .poll rest _ he hh
      | reset => exact .reset rest he hh

end Sys2Proof.Machine
end

