-- ==== Sys2Proof/Laws/PerInstr.lean ====
section
/-!
SUPPORT. The family EncodesToItself: a command is well formed, its word meets R90 and R92, and the decoder gives the command back.
-/

namespace Sys2Proof.Laws.EncodesToItself

/-- What the family says of one command. -/
def Statement (i : Instr) : Prop :=
  i.wellFormed = true ∧ cmdWordOk (encode i) = true ∧ decodeWord (encode i) = .ok i

theorem nop : Statement .nop := ⟨rfl, by decide, rfl⟩

theorem decode : Statement .decode := ⟨rfl, by decide, rfl⟩

theorem clearTable : Statement .clearTable := ⟨rfl, by decide, rfl⟩

end Sys2Proof.Laws.EncodesToItself
end

