-- ==== Sys2Proof/Tests/Slice0.lean ====
section
/-!
SUPPORT. Tests of the model against spec/95_test_vectors.md (each names its vector), the smoke test of the well-formedness
checks, and for every statement with hypotheses a witness that meets them.
-/

namespace Sys2Proof.Tests

open Sys2Proof.Machine

/-! ### small states -/

/-- Reference row FA of spec/95 2.2. -/
def rowFA : Row := ⟨227#16, [0xAAAAAAAA#32, 0x5555AAAA#32, 0x65555555#32, 0x59559966#32, 0x555565A5#32, 0x55555555#32,
  0x69995555#32, 0x00000000#32]⟩

/-- A row that differs from FA in words 3, 4 and 6. -/
def rowLike (w3 w4 w6 : Word) : Row := ⟨227#16, [0xAAAAAAAA#32, 0x5555AAAA#32, 0x65555555#32, w3, w4, 0x55555555#32, w6,
  0x00000000#32]⟩

/-- Reference row FC: trailer 0x64. -/
def rowFC : Row := rowLike 0x59559966#32 0x555565A5#32 0x69595555#32
/-- Reference row FD: ones nibble 0xA. -/
def rowFD : Row := rowLike 0x59559966#32 0x55556566#32 0x69995555#32
/-- Reference row FL: decimal nibble 0xA. -/
def rowFL : Row := rowLike 0x66559966#32 0x555565A5#32 0x69995555#32
/-- Frame FA with Frame[8] = 0xB0, V-V8. -/
def rowTens : Row := rowLike 0x59559966#32 0x5555A655#32 0x69995555#32
/-- Reference row FE: 60.1 °C. -/
def rowFE : Row := rowLike 0x95559966#32 0x55556955#32 0x69995555#32
/-- Reference row FF: 60.0 °C. -/
def rowFF : Row := rowLike 0x55559966#32 0x55556955#32 0x69995555#32
/-- Reference row FG: -40.0 °C. -/
def rowFG : Row := rowLike 0x55559966#32 0x55565955#32 0x69995555#32
/-- Reference row FH: -40.1 °C. -/
def rowFH : Row := rowLike 0x95559966#32 0x55565955#32 0x69995555#32
/-- Reference row FS: Frame[1] = 0x0F and Frame[2] = 0x00. -/
def rowFS : Row := { rowFA with data := rowFA.data.set 0 0x55AAAAAA#32 |>.set 1 0x55555555#32 }
/-- V-L5: FA with raw byte 10 = 0x45, so that raw pair 41 is (0, 0). -/
def rowL5 : Row := { rowFA with data := rowFA.data.set 2 0x65455555#32 }
/-- V-P1: FA with raw byte 2 = 0xAB. -/
def rowP1 : Row := { rowFA with data := rowFA.data.set 0 0xAAABAAAA#32 }
/-- V-P2: FA with raw byte 27 = 0x65. -/
def rowP2 : Row := { rowFA with data := rowFA.data.set 6 0x65995555#32 }

/-- The Frame of row FA. -/
def frameFA : Frame := [0xFF#8, 0xFF#8, 0xFF#8, 0x00#8, 0x00#8, 0x20#8, 0x5A#8, 0x40#8, 0x23#8, 0x00#8, 0x00#8, 0x00#8,
  0x00#8, 0x65#8]

/-- The key (5A, 3) tracked at `t` tenths. -/
def slot5A (t : Int) : Slot := ⟨true, true, 0x5A#8, 3#5, BitVec.ofInt 16 t⟩

/-- The key (5A, 4) tracked at 39.1 °C, as in P2. -/
def slotCh4 : Slot := ⟨true, true, 0x5A#8, 4#5, 0x187#16⟩

/-- A slot of the key (77, 1). -/
def slot77 : Slot := ⟨true, true, 0x77#8, 1#5, 0#16⟩

/-- A state of an instance with two slots and two rows, with `row` in row 0 and NROWS = 1. -/
def demo (row : Row) (slots : List Slot) : State :=
  { State.resetOf ⟨2, 2⟩ 0 with
    rows := [row, ⟨0#16, List.replicate 8 0#32⟩]
    nrows := 1#7
    slots := slots
    tableCount := BitVec.ofNat 8 (slots.countP fun x => x.used) }

/-- Two free slots. -/
def noSlots : List Slot := [Slot.free, Slot.free]

/-- `demo` with the host about to issue `ops`. -/
def demoHost (ops : List HostOp) : State := { demo rowFA [slot5A 200, Slot.free] with host := ops }

/-- The same while a command is pending, with `wait` host events before its completion. -/
def demoBusy (i : Instr) (wait : Nat) (ops : List HostOp) : State :=
  { demoHost ops with pending := some i, wait := wait }

/-- The state a step or a meaning answers. -/
def after (o : Host.Outcome State Fault Refusal) : Option State :=
  match o with
  | .next t => some t
  | _ => none

/-- A view of the state DECODE answers. -/
def decoded {α : Type} (f : State → α) (s : State) : Option α := (after (exec .decode s)).map f

/-- A view of the state after the host's next event. -/
def stepped {α : Type} (f : State → α) (s : State) : Option α := (after (step s)).map f

/-! ### well-formedness refuses ill-formed terms -/

theorem test_wellFormed_op : cmdOpOk 0x00000003#32 = false ∧ cmdOpOk 0x0000000F#32 = false ∧ cmdWordOk 0x00000003#32 = false ∧
    cmdOpOk 0x00000002#32 = true := by decide

theorem test_wellFormed_rsv : cmdRsvOk 0x00000011#32 = false ∧ cmdRsvOk 0x80000000#32 = false ∧
    cmdWordOk 0x00000011#32 = false ∧ cmdRsvOk 0x0000000F#32 = true := by decide

theorem test_wellFormed_hostForm :
    (HostForm.writeRow 2 []).wf ⟨2, 2⟩ = false ∧ (HostForm.writeRow 1 (List.replicate 33 0#8)).wf ⟨2, 2⟩ = false ∧
    (HostForm.writeSized .byte 0x014#13 0x100#32).wf ⟨2, 2⟩ = false ∧
    (HostForm.writeSized .half 0x014#13 0x10000#32).wf ⟨2, 2⟩ = false ∧
    (HostForm.writeRow 1 (List.replicate 32 0#8)).wf ⟨2, 2⟩ = true := by decide

theorem test_wellFormed_params : Params.ok ⟨0, 1⟩ = false ∧ Params.ok ⟨129, 1⟩ = false ∧ Params.ok ⟨1, 0⟩ = false ∧
    Params.ok ⟨1, 65⟩ = false ∧ Params.ok ⟨128, 64⟩ = true := by decide

theorem test_wellFormed_rows : RowMemory.wf 2 [rowFA] = false ∧ RowMemory.wf 1 [⟨227#16, []⟩] = false ∧
    RowMemory.wf 1 [rowFA] = true := by decide

/-! ### decoding: each word written out bit by bit from R90 and R91 -/

/-- OP = 0x0. -/
theorem test_decode_nop : decodeTableWord 32 0b00000000000000000000000000000000 = some .nop := by decide
/-- OP = 0x1. -/
theorem test_decode_decode : decodeTableWord 32 0b00000000000000000000000000000001 = some .decode := by decide
/-- OP = 0x2. -/
theorem test_decode_clearTable : decodeTableWord 32 0b00000000000000000000000000000010 = some .clearTable := by decide
/-- R92: a reserved opcode (V-C2), a reserved bit (V-C3), the top bit, and a truncated word. -/
theorem test_decode_refuses : decodeTableWord 32 0b11 = none ∧ decodeTableWord 32 0b10001 = none ∧
    decodeTableWord 32 0x80000001 = none ∧ decodeWord 0x3#32 = .error .reservedOpcode ∧
    decodeWord 0x11#32 = .error .reservedBits ∧ decodeBytes [1#8, 0#8, 0#8] = .error .truncated := by
  refine ⟨?_, ?_, ?_, rfl, rfl, rfl⟩ <;> decide

/-- Each command, placed by `withFetchWord` right after reset, runs in the very next step; an illegal word is V-C2. -/
theorem test_fetch_from_reset :
    stepped (fun t => t.done) (State.reset.withFetchWord 32 0) = some true ∧
    stepped (fun t => t.result0.word) (State.reset.withFetchWord 32 1) = some 0x00000011#32 ∧
    stepped (fun t => t.tableCount) (State.reset.withFetchWord 32 2) = some 0#8 ∧
    stepped (fun t => statusWord t) (State.reset.withFetchWord 32 3) = some 0x00000100#32 := by decide

/-! ### line decoder (spec/95 2.1, 2.3) -/

/-- The table of 2.1, in the order of the nibbles. -/
theorem test_rawOfNibble : (List.range 16).map (fun k => rawOfNibble (BitVec.ofNat 4 k)) =
    [0x55#8, 0x95#8, 0x65#8, 0xA5#8, 0x59#8, 0x99#8, 0x69#8, 0xA9#8, 0x56#8, 0x96#8, 0x66#8, 0xA6#8, 0x5A#8, 0x9A#8,
      0x6A#8, 0xAA#8] := by decide

/-- V-L1: raw byte 0xAA inverts to 01010101. -/
theorem test_invert : (invert rowFA).take 8 = [false, true, false, true, false, true, false, true] := by decide +kernel

/-- V-L2. -/
theorem test_manchester : (manchester [false, true, false, true, false, true, false, true,
    true, false, true, false, true, false, true, false] 0 1) = [0xF0#8] := by decide

/-- V-L3. -/
theorem test_reflect : reflectByte 0xA6#8 = 0x65#8 ∧ reflectByte 0xF0#8 = 0x0F#8 ∧ reflectByte 0x66#8 = 0x66#8 := by decide

/-- V-L4. -/
theorem test_lineDecode : lineDecode rowFA = frameFA := by decide +kernel

/-- V-L5. -/
theorem test_lineDecode_invalidPair : lineDecode rowL5 = [0xFF#8, 0xFF#8, 0xFF#8] ++ List.replicate 11 0x00#8 := by
  decide +kernel

/-! ### commands -/

/-- V-C1, the completion step. -/
theorem test_nop : stepped statusWord (demoBusy .nop 0 []) = some 0x00000002#32 := by decide

/-- P1 lines 13 and 14, with the Frame words of its end state. -/
theorem test_decode_accepts : decoded (fun t => [t.result0.word, t.result1.word, t.frame0, t.frame1, t.frame2, t.frame3,
    readReg t .tableCount, readReg t (.slotKey 0), readReg t (.slotTemp 0)]) (demo rowFA noSlots) =
    some [0x00000003#32, 0x00EA035A#32, 0x00FFFFFF#32, 0x405A2000#32, 0x00000023#32, 0x00006500#32, 1#32,
      0x00035A03#32, 0x000000EA#32] := by decide +kernel

/-- V-V1, V-V8 and V-V9 to V-V12: the first failing check decides the reason, and both bounds of the range. -/
theorem test_decode_checks : [rowFC, rowTens, rowFF, rowFE, rowFG, rowFH].map (fun r =>
    decoded (fun t => (t.result0.word, t.result1.word)) (demo r noSlots)) =
    [some (0x00000042#32, 0#32), some (0x00000062#32, 0#32), some (0x00000003#32, 0x0258035A#32),
      some (0x00000072#32, 0#32), some (0x00000203#32, 0xFE70035A#32), some (0x00000072#32, 0#32)] := by decide +kernel

/-- V-F2 to V-F5 and V-F9: the delta boundary on both sides, and a full table. -/
theorem test_filter : (filter 0x5A#8 3#5 160 (demo rowFA [slot5A 40, Slot.free])).1 = none ∧
    (filter 0x5A#8 3#5 161 (demo rowFA [slot5A 40, Slot.free])).1 = some .delta ∧
    (filter 0x5A#8 3#5 (-279) (demo rowFA [slot5A (-400), Slot.free])).1 = some .delta ∧
    (filter 0x5A#8 3#5 (-280) (demo rowFA [slot5A (-400), Slot.free])).1 = none ∧
    (filter 0x77#8 1#5 0 (demo rowFA [slot5A 270, slotCh4])).1 = some .tableFull := by decide

/-- V-C14. -/
theorem test_clearTable : (after (exec .clearTable (demo rowFA [slot5A 40, Slot.free]))).map
    (fun t => (readReg t .tableCount, readReg t (.slotKey 0))) = some (0#32, 0#32) := by decide

/-! ### the host bus (spec/95 2.8) -/

/-- V-C4, V-C5, V-C8, V-C12 and V-C6 (with N_ROWS = 2): each sets ERR_ACCESS alone. -/
theorem test_bus_access : [HostOp.write 0x014#13 .half 1#32, .write 0x016#13 .word 1#32, .write 0x00C#13 .word 1#32,
    .write 0x000#13 .word 0#32, .write 0x014#13 .word 3#32].map (fun op => stepped statusWord (demoHost [op])) =
    List.replicate 5 (some 0x00000400#32) := by decide

/-- V-C7, V-C16, V-C9, V-C13 (with N_DEV = N_ROWS = 2). -/
theorem test_bus_reads : [0x030#13, 0x1004#13, 0x004#13, 0x000#13].map (fun a => stepped
    (fun t => (t.replies, statusWord t)) (demoHost [.read a .word])) =
    [some ([0#32], 0x400#32), some ([0#32], 0x400#32), some ([0#32], 0#32), some ([0x00E30202#32], 0#32)] := by decide

/-- V-C10. -/
theorem test_bus_status : stepped statusWord { demoHost [.write 0x008#13 .word 0x00000500#32] with
    done := true, errIllegal := true, errBusy := true, errAccess := true } = some 0x00000202#32 := by decide

/-- V-C11, before the completion step. -/
theorem test_bus_busy : stepped (fun t => (statusWord t, t.nrows)) (demoBusy .decode 1 [.write 0x014#13 .word 0#32]) =
    some (0x00000201#32, 1#7) := by decide

/-- V-C15. -/
theorem test_bus_rowLen : stepped (fun t => (readReg t (.rowLen 0), statusWord t))
    (demoHost [.write 0x1000#13 .word 0xFFFF00E3#32]) = some (0x000000E3#32, 0#32) := by decide

/-! ### witnesses: each meets the hypotheses of the statement it names -/

theorem witness_DecoderAcceptsExactlyTheFullWords :
    (engineTurn (demoHost [.write 0x004#13 .word 0x3#32]) = none ∧ (demoHost [.write 0x004#13 .word 0x3#32]).busy = false ∧
      3 ≤ ((0x3#32 : Word).extractLsb' 0 4).toNat) ∧
    (engineTurn (demoHost [.write 0x004#13 .word 0x11#32]) = none ∧ (demoHost [.write 0x004#13 .word 0x11#32]).busy = false ∧
      (0x11#32 : Word).extractLsb' 4 28 ≠ 0#28) := by decide

theorem witness_CommandBytesRoundTrip : bytesOfWord 0x00000002#32 = bytesOfWord (encode .clearTable) := by decide

theorem witness_StepRunsThePendingCommand :
    ((demoBusy .decode 0 [.poll]).pending = some .decode ∧ (demoBusy .decode 0 [.poll]).wait = 0) ∧
    ((demoBusy .nop 3 []).pending = some .nop ∧ (demoBusy .nop 3 []).host = []) ∧
    (demoHost []).pending = none ∧
    ((demoBusy .nop 3 [.poll]).wait ≠ 0 ∧ (demoBusy .nop 3 [.poll]).host ≠ []) ∧
    decodeWord 0x00000001#32 = .ok .decode := by
  refine ⟨by decide, by decide, by decide, by decide, rfl⟩

theorem witness_CommandIssueFollowsR220 :
    (engineTurn (demoBusy .nop 1 [.write 0x004#13 .word 1#32]) = none ∧
      (demoBusy .nop 1 [.write 0x004#13 .word 1#32]).busy = true) ∧
    (engineTurn (demoHost [.write 0x004#13 .word 3#32]) = none ∧ (demoHost [.write 0x004#13 .word 3#32]).busy = false ∧
      (3#32 : Word) ≠ 0#32 ∧ (3#32 : Word) ≠ 1#32 ∧ (3#32 : Word) ≠ 2#32) ∧
    (engineTurn (demoHost [.write 0x004#13 .word 2#32]) = none ∧ (demoHost [.write 0x004#13 .word 2#32]).busy = false ∧
      (2#32 : Word) = encode .clearTable) := by decide

theorem witness_PendingCommandAlwaysCompletes :
    (demoBusy .decode 1 [.poll]).pending = some .decode ∧ (demoBusy .decode 1 [.poll]).wait = 0 + 1 ∧
    (demoBusy .decode 1 [.poll]).host = [.poll] ∧ HostOp.poll ≠ .reset ∧ HostOp.reset ∉ (demoBusy .decode 1 [.poll]).host ∧
    ∃ t, step (demoBusy .decode 1 [.poll]) = .next t :=
  ⟨rfl, rfl, rfl, by decide, by decide, _, rfl⟩

theorem witness_NopChangesOnlyBusyAndDone :
    (engineTurn (demoHost [.write 0x004#13 .word 0#32]) = none ∧ (demoHost [.write 0x004#13 .word 0#32]).busy = false) ∧
    (engineTurn (demoBusy .decode 2 [.write 0x004#13 .word 0#32]) = none ∧
      (demoBusy .decode 2 [.write 0x004#13 .word 0#32]).busy = true) ∧
    ((demoBusy .nop 0 []).errIllegal = false ∧ (demoBusy .nop 0 []).errBusy = false ∧
      (demoBusy .nop 0 []).errAccess = false) := by decide

theorem witness_ClearTableFreesEverySlot :
    ((∀ x ∈ (demo rowFA noSlots).slots, x = Slot.free) ∧ (demo rowFA noSlots).tableCount = 0#8) ∧
    (engineTurn (demoBusy .nop 1 [.write 0x004#13 .word 2#32]) = none ∧
      (demoBusy .nop 1 [.write 0x004#13 .word 2#32]).busy = true) := by decide

theorem witness_DecodeGivesOneClassifiedOutcome :
    decoded (fun t => t.result0.outcome) (demo rowFC noSlots) = some .sanityFailure ∧
    decoded (fun t => t.result0.outcome) (demo rowP1 noSlots) = some .noCandidate ∧
    decoded (fun t => t.result0.outcome) (demo rowFA noSlots) = some .accepted := by decide +kernel

theorem witness_DecodeFrame : ∃ t, exec .decode (demo rowFC noSlots) = .next t ∧ t.result0.outcome ≠ .accepted :=
  ⟨_, rfl, by decide +kernel⟩

/-- An acceptance of an unseen key writes slot 1 of the table beside slot 0, and TABLE_COUNT; one of a known key, slot 0. -/
theorem witness_DecodeFrame_accepted :
    filterSlot (demo rowFA [slotCh4, Slot.free]) 0x5A#8 3#5 = some 1 ∧
    decoded (fun t => (t.result0.outcome, t.slotAt 0, t.tableCount)) (demo rowFA [slotCh4, Slot.free]) =
      some (.accepted, slotCh4, 2#8) ∧
    filterSlot (demo rowFA [slot5A 200, slotCh4]) 0x5A#8 3#5 = some 0 ∧
    decoded (fun t => (t.result0.outcome, t.slotAt 1, t.tableCount)) (demo rowFA [slot5A 200, slotCh4]) =
      some (.accepted, slotCh4, 2#8) ∧
    filterSlot (demo rowFA [slot77, slotCh4]) 0x5A#8 3#5 = none := by decide +kernel

theorem witness_LocateSelectsTheFirst227BitRow :
    (∀ r < (demo ⟨228#16, rowFA.data⟩ noSlots).nrows.toNat, ((demo ⟨228#16, rowFA.data⟩ noSlots).rowAt r).len ≠ 227#16) ∧
    (demo rowFC noSlots).nrows = (demo rowFA noSlots).nrows := by decide

theorem witness_PreChecksInOrderWithoutFallback :
    0 < (demo rowP1 noSlots).nrows.toNat ∧ ((demo rowP1 noSlots).rowAt 0).len = 227#16 ∧
    ¬(rowByte rowP1 0 = 0xAA#8 ∧ rowByte rowP1 1 = 0xAA#8 ∧ rowByte rowP1 2 = 0xAA#8) ∧
    (rowByte rowP2 0 = 0xAA#8 ∧ rowByte rowP2 1 = 0xAA#8 ∧ rowByte rowP2 2 = 0xAA#8 ∧ rowByte rowP2 27 ≠ 0x69#8) ∧
    (rowByte rowFA 0 = 0xAA#8 ∧ rowByte rowFA 1 = 0xAA#8 ∧ rowByte rowFA 2 = 0xAA#8 ∧ rowByte rowFA 27 = 0x69#8) := by
  decide

/-- A row whose first invalid pair is the last one, 111: raw byte 27 = 0x6B. -/
def rowLast : Row := { rowFA with data := rowFA.data.set 6 0x6B995555#32 }
/-- A row whose first invalid pair is pair 0: raw byte 0 = 0xEA. -/
def rowFirst : Row := { rowFA with data := rowFA.data.set 0 0xAAAAAAEA#32 }

theorem witness_LineDecodeClosedForm :
    (∀ i < 112, rowBit rowFA (2 * i) ≠ rowBit rowFA (2 * i + 1)) ∧
    (rowBit rowL5 (2 * 41) = rowBit rowL5 (2 * 41 + 1) ∧ ∀ i < 41, rowBit rowL5 (2 * i) ≠ rowBit rowL5 (2 * i + 1)) ∧
    (rowBit rowFirst (2 * 0) = rowBit rowFirst (2 * 0 + 1)) ∧
    (rowBit rowLast (2 * 111) = rowBit rowLast (2 * 111 + 1) ∧
      ∀ i < 111, rowBit rowLast (2 * i) ≠ rowBit rowLast (2 * i + 1)) := by decide +kernel

theorem witness_LineCodingRoundTrip : frameFA.length = 14 ∧ rowOfFrame frameFA 0#32 = rowFA ∧
    ∀ i < 112, rowBit rowFA (2 * i) ≠ rowBit rowFA (2 * i + 1) := by decide +kernel

theorem witness_PreChecksFixTheseFrameBits : preambleOK rowFA = true ∧ sentinelOK rowFA = true ∧
    (∀ i < 112, rowBit rowFA (2 * i) ≠ rowBit rowFA (2 * i + 1)) ∧
    frameFA.length = 14 ∧ frameFA.byte 0 = 0xFF#8 ∧ frameFA.lo 1 = 0xF#4 ∧ frameFA.hi 13 = 0x6#4 := by decide +kernel

theorem witness_InvalidPairEndsInTrailer : ReachesLineDecoder (demo rowL5 noSlots) 0 ∧ 41 < 112 ∧
    rowBit ((demo rowL5 noSlots).rowAt 0) (2 * 41) = rowBit ((demo rowL5 noSlots).rowAt 0) (2 * 41 + 1) := by
  unfold ReachesLineDecoder; decide +kernel

/-- Row FA with raw bits 224 to 255 set. -/
def rowTail : Row := { rowFA with data := rowFA.data.set 7 0xFFFFFFFF#32 }

theorem witness_RawBitsFrom224AreNeverRead :
    (∀ r, ({ demo rowFA noSlots with rows := (demo rowTail noSlots).rows }.rowAt r).len = ((demo rowFA noSlots).rowAt r).len) ∧
    (∀ r, ∀ k < 224, rowBit ({ demo rowFA noSlots with rows := (demo rowTail noSlots).rows }.rowAt r) k =
      rowBit ((demo rowFA noSlots).rowAt r) k) ∧ rowBit rowTail 224 ≠ rowBit rowFA 224 := by
  refine ⟨fun r => ?_, fun r k hk => ?_, by decide⟩
  · match r with
    | 0 => rfl
    | r + 1 => rfl
  · match r with
    | 0 => revert k; decide +kernel
    | r + 1 => rfl

theorem witness_FirstFailingCheckDecidesTheReason :
    (ReachesLineDecoder (demo rowFC noSlots) 0 ∧ (lineDecode rowFC).byte 13 ≠ 0x65#8) ∧
    (ReachesLineDecoder (demo rowFL noSlots) 0 ∧ (lineDecode rowFL).byte 13 = 0x65#8 ∧ 9 < ((lineDecode rowFL).hi 7).toNat) ∧
    (ReachesLineDecoder (demo rowTens noSlots) 0 ∧ (lineDecode rowTens).byte 13 = 0x65#8 ∧
      9 < ((lineDecode rowTens).hi 8).toNat) ∧
    (ReachesLineDecoder (demo rowFD noSlots) 0 ∧ (lineDecode rowFD).byte 13 = 0x65#8 ∧ 9 < ((lineDecode rowFD).lo 8).toNat) ∧
    (ReachesLineDecoder (demo rowFE noSlots) 0 ∧ tempOf (lineDecode rowFE) = 601 ∧ ReachesLineDecoder (demo rowFH noSlots) 0 ∧
      tempOf (lineDecode rowFH) = -401) ∧
    (ReachesLineDecoder (demo rowFF noSlots) 0 ∧ tempOf (lineDecode rowFF) = 600 ∧ ReachesLineDecoder (demo rowFG noSlots) 0 ∧
      tempOf (lineDecode rowFG) = -400 ∧ bcdOK (lineDecode rowFG) = true ∧ (lineDecode rowFG).byte 13 = 0x65#8) := by
  unfold ReachesLineDecoder; decide +kernel

theorem witness_ReasonChannelIsUnreachable :
    ∃ s t : State, step s = .next t ∧ t.result0.reason = .channel ∧ s.result0.reason = .channel :=
  ⟨{ demoHost [] with result0 := ⟨.sanityFailure, .channel, false, false, 0#6⟩ }, _, rfl, rfl, rfl⟩

theorem witness_ExtractorArithmetic :
    (frameFA.hi 8).toNat ≤ 9 ∧ (frameFA.lo 8).toNat ≤ 9 ∧ (frameFA.hi 7).toNat ≤ 9 ∧ (extract frameFA).t = 234 ∧
    (Frame.byte [0#8] 8).toNat = 0 ∧ (Frame.byte [0#8] 7).toNat / 16 = 0 := by decide

theorem witness_UnreadFrameBitsDoNotMatter :
    ReachesLineDecoder (demo rowFA noSlots) 0 ∧
    ReachesLineDecoder { demo rowFA noSlots with rows := (demo rowFS noSlots).rows } 0 ∧
    lineDecode rowFA ≠ lineDecode rowFS ∧ (lineDecode rowFA).hi 5 = (lineDecode rowFS).hi 5 ∧
    (lineDecode rowFA).byte 6 = (lineDecode rowFS).byte 6 ∧ (lineDecode rowFA).hi 7 = (lineDecode rowFS).hi 7 ∧
    (lineDecode rowFA).byte 8 = (lineDecode rowFS).byte 8 ∧
    ((lineDecode rowFA).byte 9).getLsbD 3 = ((lineDecode rowFS).byte 9).getLsbD 3 ∧
    (lineDecode rowFA).byte 13 = (lineDecode rowFS).byte 13 := by
  unfold ReachesLineDecoder; decide +kernel

/-- What row FA's Frame says: id 0x5A, channel 3, 23.4 °C. -/
def fieldsFA : Fields := ⟨3#5, 0x5A#8, 234, false, false⟩

/-- Row FA comes to the filter whatever the table holds. -/
theorem reachesFilter_FA (slots : List Slot) : ReachesFilter (demo rowFA slots) 0 fieldsFA := by
  refine ⟨⟨rfl, ?_, ?_⟩, ?_⟩
  · show preambleOK rowFA = true; decide
  · show sentinelOK rowFA = true; decide
  · show validate (lineDecode rowFA) = .ok fieldsFA
    rw [test_lineDecode]; rfl

theorem firstHolder_FA (t : Int) (x : Slot) : FirstHolder (demo rowFA [slot5A t, x]) 0x5A#8 3#5 0 :=
  ⟨by show 0 < 2; decide, rfl, rfl, rfl, fun j hj => absurd hj (Nat.not_lt_zero j)⟩

theorem witness_DeltaAbove120IsRejected :
    ReachesFilter (demo rowFA [slot5A 113, Slot.free]) 0 fieldsFA ∧
    FirstHolder (demo rowFA [slot5A 113, Slot.free]) fieldsFA.id fieldsFA.ch 0 ∧
    ((demo rowFA [slot5A 113, Slot.free]).slotAt 0).tracked = true ∧
    120 < (fieldsFA.t - ((demo rowFA [slot5A 113, Slot.free]).slotAt 0).last.toInt).natAbs :=
  ⟨reachesFilter_FA _, firstHolder_FA _ _, rfl, by decide⟩

theorem witness_DeltaUpTo120UpdatesLast :
    ReachesFilter (demo rowFA [slot5A 114, Slot.free]) 0 fieldsFA ∧
    FirstHolder (demo rowFA [slot5A 114, Slot.free]) fieldsFA.id fieldsFA.ch 0 ∧
    ((demo rowFA [slot5A 114, Slot.free]).slotAt 0).tracked = true ∧
    (fieldsFA.t - ((demo rowFA [slot5A 114, Slot.free]).slotAt 0).last.toInt).natAbs ≤ 120 :=
  ⟨reachesFilter_FA _, firstHolder_FA _ _, rfl, by decide⟩

/-- A used slot that is not yet tracked. -/
def untracked : Slot := ⟨true, false, 0x5A#8, 3#5, 0#16⟩

theorem witness_UntrackedKeyBecomesTracked :
    ReachesFilter (demo rowFA [untracked, Slot.free]) 0 fieldsFA ∧
    FirstHolder (demo rowFA [untracked, Slot.free]) fieldsFA.id fieldsFA.ch 0 ∧
    ((demo rowFA [untracked, Slot.free]).slotAt 0).tracked = false :=
  ⟨reachesFilter_FA _, ⟨by show 0 < 2; decide, rfl, rfl, rfl, fun j hj => absurd hj (Nat.not_lt_zero j)⟩, rfl⟩

theorem witness_UnseenKeyTakesTheFirstFreeSlot :
    ReachesFilter (demo rowFA [slotCh4, Slot.free]) 0 fieldsFA ∧
    Unseen (demo rowFA [slotCh4, Slot.free]) fieldsFA.id fieldsFA.ch ∧
    1 < (demo rowFA [slotCh4, Slot.free]).slots.length ∧ ((demo rowFA [slotCh4, Slot.free]).slotAt 1).used = false ∧
    (∀ j < 1, ((demo rowFA [slotCh4, Slot.free]).slotAt j).used = true) := by
  refine ⟨reachesFilter_FA _, ?_, by decide, by decide, by decide⟩
  unfold Unseen; decide

theorem witness_FullTableRejectsUnseenKey :
    (ReachesFilter (demo rowFA [slot77, slotCh4]) 0 fieldsFA ∧ Unseen (demo rowFA [slot77, slotCh4]) fieldsFA.id fieldsFA.ch ∧
      ∀ j < (demo rowFA [slot77, slotCh4]).slots.length, ((demo rowFA [slot77, slotCh4]).slotAt j).used = true) ∧
    (ReachesFilter (demo rowFA [slot5A 200, slotCh4]) 0 fieldsFA ∧
      FirstHolder (demo rowFA [slot5A 200, slotCh4]) fieldsFA.id fieldsFA.ch 0 ∧
      ∀ j < (demo rowFA [slot5A 200, slotCh4]).slots.length, ((demo rowFA [slot5A 200, slotCh4]).slotAt j).used = true) := by
  refine ⟨⟨reachesFilter_FA _, ?_, by decide⟩, reachesFilter_FA _, firstHolder_FA _ _, by decide⟩
  unfold Unseen; decide

theorem witness_KeysAreIndependent :
    ReachesFilter (demo rowFA [slot77, slotCh4]) 0 fieldsFA ∧
    (((demo rowFA [slot77, slotCh4]).slotAt 1).used = true ∧ ((demo rowFA [slot77, slotCh4]).slotAt 1).ch ≠ fieldsFA.ch) ∧
    ((demo rowFA [slot77, slotCh4]).slotAt 0).id ≠ fieldsFA.id :=
  ⟨reachesFilter_FA _, by decide, by decide⟩

/-- The slot changes by CLEAR_TABLE, by reset, and by an accepted DECODE. -/
theorem witness_TrackedSlotChangesOnlySo :
    ((demoBusy .clearTable 0 []).slotAt 0).tracked = true ∧
    stepped (fun t => t.slotAt 0) (demoBusy .clearTable 0 []) = some Slot.free ∧
    stepped (fun t => t.slotAt 0) (demoHost [.reset]) = some Slot.free ∧
    stepped (fun t => t.slotAt 0) (demoBusy .decode 0 []) = some (slot5A 234) := by decide +kernel

theorem witness_EarlierRejectionIgnoresTheTable :
    decoded (fun t => t.result0.reason) (demo rowFC [slot5A 40, Slot.free]) = some .trailer := by decide +kernel

theorem witness_AcceptedDecodeIsIdempotent :
    (∃ t, exec .decode (demo rowFA noSlots) = .next t ∧ t.result0.outcome = .accepted) ∧
    ∀ t : State, ({ t with errBusy := true, host := [.poll] } : State).rows = t.rows ∧
      ({ t with errBusy := true, host := [.poll] } : State).nrows = t.nrows ∧
      ({ t with errBusy := true, host := [.poll] } : State).slots = t.slots ∧
      ({ t with errBusy := true, host := [.poll] } : State).tableCount = t.tableCount :=
  ⟨⟨_, rfl, by decide +kernel⟩, fun _ => ⟨rfl, rfl, rfl, rfl⟩⟩

theorem witness_AddressMapIsExact : Params.ok ⟨128, 64⟩ = true ∧ regAt ⟨128, 64⟩ 0xBF8 = some (.slotKey 127) ∧
    regAt ⟨128, 64⟩ 0x1FFC = some (.rowData 63 7) ∧ regAt ⟨1, 1⟩ 0x808 = none ∧ regAt ⟨1, 1⟩ 0x1040 = none ∧
    regAt ⟨1, 1⟩ 0x030 = none ∧ regAt ⟨1, 1⟩ 0x7FC = none ∧ regAt ⟨128, 64⟩ 0xC00 = none := by decide

theorem witness_WriteErrorsFollowThePriority :
    (engineTurn (demoHost [.write 0x014#13 .half 1#32]) = none ∧ Size.half ≠ .word) ∧
    (engineTurn (demoHost [.write 0x016#13 .word 1#32]) = none ∧ (0x016#13 : Offset).toNat % 4 ≠ 0) ∧
    (engineTurn (demoBusy .nop 1 [.write 0x014#13 .word 1#32]) = none ∧
      (demoBusy .nop 1 [.write 0x014#13 .word 1#32]).busy = true ∧ (0x014#13 : Offset).toNat % 4 = 0) ∧
    (engineTurn (demoHost [.write 0x00C#13 .word 1#32]) = none ∧ (demoHost [.write 0x00C#13 .word 1#32]).busy = false ∧
      regAt ⟨2, 2⟩ (0x00C#13 : Offset).toNat = some .result0) ∧
    (engineTurn (demoHost [.write 0x030#13 .word 1#32]) = none ∧ regAt ⟨2, 2⟩ (0x030#13 : Offset).toNat = none) ∧
    (engineTurn (demoHost [.write 0x004#13 .word 3#32]) = none ∧ (demoHost [.write 0x004#13 .word 3#32]).busy = false) ∧
    (engineTurn (demoHost [.write 0x014#13 .word 3#32]) = none ∧ (demoHost []).param.nRows < (3#32 : Word).toNat) := by
  decide

theorem witness_ReadsReturnCurrentValues :
    (engineTurn (demoHost [.read 0x1000#13 .word]) = none ∧ (0x1000#13 : Offset).toNat % 4 = 0 ∧
      regAt (demoHost []).param (0x1000#13 : Offset).toNat = some (.rowLen 0)) ∧
    (engineTurn (demoHost [.read 0x000#13 .byte]) = none ∧ Size.byte ≠ .word) ∧
    (engineTurn (demoHost [.read 0x002#13 .word]) = none ∧ (0x002#13 : Offset).toNat % 4 ≠ 0) ∧
    (engineTurn (demoHost [.read 0x030#13 .word]) = none ∧ regAt (demoHost []).param (0x030#13 : Offset).toNat = none) ∧
    (3 < 4 ∧ (readReg (demoHost []) (.rowData 0 1)).extractLsb' (8 * 3) 8 = rowByte rowFA (4 * 1 + 3)) := by
  decide

theorem witness_PendingCommandSeesFrozenInputs :
    (demoBusy .decode 1 [.write 0x014#13 .word 0#32]).pending = some .decode ∧
    ∃ t, step (demoBusy .decode 1 [.write 0x014#13 .word 0#32]) = .next t ∧ t.pending = some .decode :=
  ⟨rfl, _, rfl, by decide⟩

theorem witness_StatusWriteClearsWrittenOnes :
    (engineTurn (demoHost [.write 0x008#13 .word 0x702#32]) = none ∧
      (demoHost [.write 0x008#13 .word 0x702#32]).busy = false) ∧
    (engineTurn (demoBusy .nop 1 [.write 0x008#13 .word 0x702#32]) = none ∧
      (demoBusy .nop 1 [.write 0x008#13 .word 0x702#32]).busy = true) := by decide

/-- All three error bits set, and a STATUS write that clears them; and a write that raises one. -/
theorem witness_ErrorBitsAreSticky :
    stepped (fun t => (t.errIllegal, t.errBusy, t.errAccess)) { demoHost [.write 0x008#13 .word 0x700#32] with
      errIllegal := true, errBusy := true, errAccess := true } = some (false, false, false) ∧
    stepped (fun t => (t.errIllegal, t.errBusy, t.errAccess)) { demoHost [.reset] with
      errIllegal := true, errBusy := true, errAccess := true } = some (false, false, false) ∧
    stepped (fun t => t.errBusy) (demoBusy .decode 1 [.write 0x014#13 .word 0#32]) = some true := by decide

theorem witness_NrowsWriteComparesAllBits :
    (demoHost []).param.ok = true ∧ engineTurn (demoHost [.write 0x014#13 .word 2#32]) = none ∧
    (demoHost [.write 0x014#13 .word 2#32]).busy = false ∧ (2#32 : Word).toNat ≤ (demoHost []).param.nRows ∧
    (demoHost []).param.nRows < (3#32 : Word).toNat ∧ (demoHost []).param.nRows < (0x80000001#32 : Word).toNat ∧
    locate (demo rowFA noSlots) = some 0 ∧ (demoHost []).nrows.toNat ≤ (demoHost []).param.nRows ∧
    ∃ t, step (demoHost []) = .next t :=
  ⟨by decide, by decide, by decide, by decide, by decide, by decide, by decide, by decide, _, rfl⟩

theorem witness_RowLenWriteKeepsLow16Bits :
    (demoHost []).param.ok = true ∧ RowMemory.wf (demoHost []).param.nRows (demoHost []).rows = true ∧
    1 < (demoHost []).param.nRows ∧ (BitVec.ofNat 13 (0x1000 + 0x40 * 1) : Offset) = 0x1040#13 ∧
    engineTurn (demoHost [.write 0x1040#13 .word 0xFFFF00E3#32]) = none ∧
    (demoHost [.write 0x1040#13 .word 0xFFFF00E3#32]).busy = false := by decide

theorem witness_RowDataWriteStoresFourBytes :
    (demoHost []).param.ok = true ∧ RowMemory.wf (demoHost []).param.nRows (demoHost []).rows = true ∧
    1 < (demoHost []).param.nRows ∧ 7 < 8 ∧ (BitVec.ofNat 13 (0x1020 + 0x40 * 1 + 4 * 7) : Offset) = 0x107C#13 ∧
    engineTurn (demoHost [.write 0x107C#13 .word 1#32]) = none ∧ (demoHost [.write 0x107C#13 .word 1#32]).busy = false := by
  decide

/-- Row memory changes by a ROW_LEN write, by a ROW_DATA write, and by reset (ROW_LEN goes to 0). -/
theorem witness_OnlyTheHostWritesRowMemory :
    stepped (fun t => t.rows.map Row.len) (demoHost [.write 0x1000#13 .word 0#32]) = some [0#16, 0#16] ∧
    stepped (fun t => rowByte (t.rowAt 0) 0) (demoHost [.write 0x1020#13 .word 0#32]) = some 0#8 ∧
    stepped (fun t => t.rows.map Row.len) (demoHost [.reset]) = some [0#16, 0#16] ∧
    (demoHost []).rows.map Row.len = [227#16, 0#16] ∧ rowByte ((demoHost []).rowAt 0) 0 = 0xAA#8 := by decide

theorem witness_ParamNeverChanges :
    (demoHost []).param.ok = true ∧ engineTurn (demoHost [.write 0x000#13 .word 0#32]) = none ∧
    (demoHost [.write 0x000#13 .word 0#32]).busy = false ∧ ∃ t, step (demoHost [.write 0x000#13 .word 0#32]) = .next t :=
  ⟨by decide, by decide, by decide, _, rfl⟩

theorem witness_ReadOnlyRegistersHaveTheirFields : frameFA.length = 14 ∧ wordByte (frameWord frameFA 3) 1 = 0x65#8 := by
  decide

theorem witness_ResetGivesTheResetValues :
    (engineTurn (demoHost [.reset]) = none ∧ (demoHost [.reset]).host = .reset :: []) ∧
    (engineTurn (demoBusy .decode 1 [.reset]) = none ∧ (demoBusy .decode 1 [.reset]).host = .reset :: []) := by decide

theorem witness_InvAtReset : Params.ok ⟨1, 1⟩ = true ∧ Params.ok ⟨128, 64⟩ = true := by decide

theorem inv_demoHost : Inv (demoHost []) where
  params := by decide
  rowMemory := by decide
  nrows := by decide
  busyNotDone := fun _ => rfl
  table :=
    { size := rfl
      capacity := by decide
      contiguous := fun k hk => by
        match k, (show k < 2 from hk) with
        | 0, _ => decide
        | 1, _ => decide
      unique := fun j k hj hk => by
        match j, k, (show j < 2 from hj), (show k < 2 from hk) with
        | 0, 0, _, _ => exact fun _ _ _ _ => rfl
        | 1, 1, _, _ => exact fun _ _ _ _ => rfl
        | 0, 1, _, _ => exact fun _ h => absurd h (by decide)
        | 1, 0, _, _ => exact fun h => absurd h (by decide)
      slotOk := fun k hk => by
        match k, (show k < 2 from hk) with
        | 0, _ => decide
        | 1, _ => decide }
  result :=
    { reason := rfl
      noReading := fun _ => ⟨rfl, rfl, rfl⟩
      reading := fun h => by cases h
      rowSel := ⟨by decide, fun _ => rfl⟩
      noFrame := fun _ => ⟨rfl, rfl, rfl, rfl⟩
      frame3High := by decide }

/-- No clause of the invariant but DONE speaks of the host or of the pending command. -/
theorem inv_demo (w : Nat) (i : Option Instr) (ops : List HostOp) :
    Inv { demoHost ops with pending := i, wait := w } :=
  have h := inv_demoHost
  ⟨h.params, h.rowMemory, h.nrows, fun _ => rfl,
    ⟨h.table.size, h.table.capacity, h.table.contiguous, h.table.unique, h.table.slotOk⟩,
    ⟨h.result.reason, h.result.noReading, h.result.reading, h.result.rowSel, h.result.noFrame, h.result.frame3High⟩⟩

theorem witness_EveryStepKeepsInv : Inv (demoBusy .decode 0 []) ∧ ∃ t, step (demoBusy .decode 0 []) = .next t :=
  ⟨inv_demo 0 (some .decode) [], _, rfl⟩

theorem witness_TableCountCountsUsedSlots :
    Inv (demoBusy .decode 0 []) ∧ ∃ t, Sys2Proof.core.run 1 (demoBusy .decode 0 []) = .next t :=
  ⟨inv_demo 0 (some .decode) [], _, rfl⟩

theorem witness_WriteRowLoadsTheRow :
    Inv (demoHost ((HostForm.writeRow 1 [0xAA#8]).expand ++ [.poll])) ∧
    (demoHost ((HostForm.writeRow 1 [0xAA#8]).expand ++ [.poll])).busy = false ∧
    (HostForm.writeRow 1 [0xAA#8]).wf (demoHost []).param = true :=
  ⟨inv_demo 0 none ((HostForm.writeRow 1 [0xAA#8]).expand ++ [.poll]), rfl, by decide⟩

theorem witness_PollEndsWithBusyZero :
    (engineTurn (demoBusy .nop 1 [.poll]) = none ∧ (demoBusy .nop 1 [.poll]).host = .poll :: [] ∧
      (demoBusy .nop 1 [.poll]).busy = true) ∧ (demoHost [.poll]).host = .poll :: [] := by decide

theorem witness_PlatformWindowStartsAtBase : ∃ off, offsetOfPlatform Config.base = some off :=
  ⟨_, if_pos ⟨Nat.le_refl _, by omega⟩⟩

theorem witness_ReadingAfterAcceptance :
    (∃ t, exec .decode (demo rowFA noSlots) = .next t ∧ t.result0.outcome = .accepted) ∧
    ∃ t, exec .decode (demo rowFC noSlots) = .next t ∧ t.result0.outcome ≠ .accepted :=
  ⟨⟨_, rfl, by decide +kernel⟩, _, rfl, by decide +kernel⟩

end Sys2Proof.Tests
end

section
/-!
SUPPORT. What a word write does in one step: dropped with ERR_BUSY while BUSY, and the register's own write otherwise.
-/

namespace Sys2Proof.Machine

/-- A word write that reaches the block while BUSY is dropped with ERR_BUSY (R66). -/
theorem step_wordWrite_busy {s : State} {addr : Offset} {v : Word} {rest : List HostOp} (he : engineTurn s = none)
    (hh : s.host = .write addr .word v :: rest) (ha : addr.toNat % 4 = 0) (hb : s.busy = true) :
    step s = .next { passEvent rest s with errBusy := true } := by
  have haligned : alignedWord addr .word = true := (alignedWord_iff _ _).2 ⟨rfl, ha⟩
  rw [step_event he hh, ← raise_busy_eq]
  simp [hostEvent, memWrite, haligned, hb]

/-- A word write to a mapped register with BUSY = 0 is that register's write (R65, R257). -/
theorem step_wordWrite_reg {s : State} {addr : Offset} {v : Word} {rest : List HostOp} {o : Reg}
    (he : engineTurn s = none) (hh : s.host = .write addr .word v :: rest) (ha : addr.toNat % 4 = 0)
    (hb : s.busy = false) (hr : regAt s.param addr.toNat = some o) :
    step s = .next (writeReg v (passEvent rest s) o) := by
  have haligned : alignedWord addr .word = true := (alignedWord_iff _ _).2 ⟨rfl, ha⟩
  rw [step_event he hh]
  simp [hostEvent, memWrite, haligned, hb, hr]

end Sys2Proof.Machine
end

section
/-!
SUPPORT. STATUS bit by bit, before and after a write to it (spec/10_state.md R24 to R29); O36.
-/

namespace Sys2Proof.Machine

@[simp] theorem busy_writeStatus (v : Word) (s : State) : (writeStatus v s).busy = s.busy := rfl

/-- Every bit of STATUS (R24 to R29). -/
theorem statusWord_getLsbD (s : State) (b : Nat) : (statusWord s).getLsbD b =
    (b == 0 && s.busy || b == 1 && s.done || b == 8 && s.errIllegal || b == 9 && s.errBusy ||
      b == 10 && s.errAccess) := by
  simp only [statusWord, BitVec.getLsbD_append, BitVec.getLsbD_ofBool, BitVec.getLsbD_zero]
  grind

/-- A write to STATUS clears those of the bits 1, 8, 9, 10 that it writes as 1, and no other bit (R29). -/
theorem statusWord_writeStatus_getLsbD (s : State) (v : Word) (b : Nat) : (statusWord (writeStatus v s)).getLsbD b =
    ((statusWord s).getLsbD b && !(v.getLsbD b && (b == 1 || b == 8 || b == 9 || b == 10))) := by
  simp only [statusWord_getLsbD, busy_writeStatus, writeStatus_done, writeStatus_errIllegal, writeStatus_errBusy,
    writeStatus_errAccess]
  by_cases hb : b = 1 ∨ b = 8 ∨ b = 9 ∨ b = 10
  · rcases hb with rfl | rfl | rfl | rfl <;> simp
  · obtain ⟨h1, h8, h9, h10⟩ : (b == 1) = false ∧ (b == 8) = false ∧ (b == 9) = false ∧ (b == 10) = false := by
      simpa using hb
    simp [h1, h8, h9, h10]

/-- Settles O36: reserved bits by the closed form of STATUS, the write by its effect on each bit. -/
theorem statusWriteClearsWrittenOnes : Obligations.StatusWriteClearsWrittenOnes := by
  unfold Obligations.StatusWriteClearsWrittenOnes
  refine ⟨fun s b _ h0 h1 h8 h9 h10 => by simp [statusWord_getLsbD, h0, h1, h8, h9, h10],
    fun s v rest he hh => ⟨step_wordWrite_busy he hh rfl, fun hb => ?_⟩⟩
  have hstep : step s = .next (writeStatus v (passEvent rest s)) :=
    step_wordWrite_reg he hh rfl hb (regAt_status _)
  have hbits := statusWord_writeStatus_getLsbD (passEvent rest s) v
  exact ⟨_, hstep, fun b _ => hbits b, rfl, ⟨rfl, rfl, rfl, fun _ _ => rfl⟩, ⟨rfl, rfl, rfl, rfl, rfl, rfl⟩, rfl, rfl⟩

end Sys2Proof.Machine
end

section
/-!
SUPPORT. What each step does to PARAM and to NROWS (spec/10_state.md R22, R30), and both as read; O38 and O42.
-/

namespace Sys2Proof.Machine

/-! ### what a step leaves of the two -/

@[simp] theorem decodeEffect_param (s : State) : (decodeEffect s).param = s.param := by
  obtain ⟨_, _, _, _, _, _, _, _, h⟩ := decodeEffect_frame s
  rw [h]

@[simp] theorem decodeEffect_nrows (s : State) : (decodeEffect s).nrows = s.nrows := by
  obtain ⟨_, _, _, _, _, _, _, _, h⟩ := decodeEffect_frame s
  rw [h]

theorem WriteEffect.param_eq {addr : Offset} {n : Size} {v : Word} {s t : State} (h : WriteEffect addr n v s t) :
    t.param = s.param := by
  cases h <;> rfl

theorem WriteEffect.nrows_cases {addr : Offset} {n : Size} {v : Word} {s t : State} (h : WriteEffect addr n v s t) :
    t.nrows = s.nrows ∨ (v.toNat ≤ s.param.nRows ∧ t.nrows = v.setWidth 7) := by
  cases h
  case nrows hv => exact .inr ⟨hv, rfl⟩
  all_goals exact .inl rfl

/-- No step changes PARAM, reset included (R22). -/
theorem StepEffect.param_eq {s t : State} (h : StepEffect s t) : t.param = s.param := by
  cases h
  case write hw => exact hw.param_eq
  case decode => exact decodeEffect_param s
  all_goals rfl

/-- NROWS after a step: as before, 0 by reset, or a written value that N_ROWS allows (R30). -/
theorem StepEffect.nrows_cases {s t : State} (h : StepEffect s t) :
    t.nrows = s.nrows ∨ t.nrows = 0#7 ∨ ∃ v : Word, v.toNat ≤ s.param.nRows ∧ t.nrows = v.setWidth 7 := by
  cases h
  case write v _ _ _ hw => exact hw.nrows_cases.imp_right fun hv => .inr ⟨v, hv⟩
  case reset => exact .inr (.inl rfl)
  case decode => exact .inl (decodeEffect_nrows s)
  all_goals exact .inl rfl

theorem step_nrows_le {s t : State} (h : step s = .next t) (hn : s.nrows.toNat ≤ s.param.nRows) :
    t.nrows.toNat ≤ t.param.nRows := by
  have hs := step_effect h
  rw [hs.param_eq]
  rcases hs.nrows_cases with he | he | ⟨v, hv, he⟩ <;> rw [he]
  · exact hn
  · exact Nat.zero_le _
  · rw [BitVec.toNat_setWidth]
    exact (Nat.mod_le _ _).trans hv

/-! ### the two as read -/

theorem Params.ok_iff (p : Params) : p.ok = true ↔ (1 ≤ p.nDev ∧ p.nDev ≤ 128) ∧ 1 ≤ p.nRows ∧ p.nRows ≤ 64 := by
  simp [Params.ok, and_assoc]

/-- Seven bits hold every value that N_ROWS can allow (R8, R30). -/
theorem setWidth_setWidth_of_le_64 {v : Word} (h : v.toNat ≤ 64) : (v.setWidth 7).setWidth 32 = v := by
  apply BitVec.eq_of_toNat_eq
  simp only [BitVec.toNat_setWidth]
  omega

theorem readReg_nrows_reserved (s : State) : (readReg s .nrows).extractLsb' 7 25 = 0#25 := by
  apply BitVec.eq_of_getLsbD_eq
  intro k hk
  simp [readReg, hk]

theorem paramWord_nDev (p : Params) : (paramWord p).extractLsb' 0 8 = BitVec.ofNat 8 p.nDev := by
  rw [paramWord, BitVec.extractLsb'_append_eq_right]

theorem paramWord_nRows (p : Params) : (paramWord p).extractLsb' 8 8 = BitVec.ofNat 8 p.nRows := by
  rw [paramWord, BitVec.extractLsb'_append_eq_of_le (by omega), BitVec.extractLsb'_append_eq_right]

theorem paramWord_rowBits (p : Params) : (paramWord p).extractLsb' 16 16 = 0x00E3#16 := by
  rw [paramWord, BitVec.extractLsb'_append_eq_of_le (by omega), BitVec.extractLsb'_append_eq_left, rowBits]

/-! ### the statements -/

/-- Settles O38: a written value that N_ROWS allows fits NROWS, and every step keeps the bound. -/
theorem nrowsWriteComparesAllBits : Obligations.NrowsWriteComparesAllBits := by
  unfold Obligations.NrowsWriteComparesAllBits
  refine ⟨rfl, readReg_nrows_reserved, fun s r h => (locate_some_spec h).1, fun s t _ hn h => step_nrows_le h hn,
    fun s v rest hp he hb hh => ?_⟩
  obtain ⟨_, _, hle⟩ := (Params.ok_iff _).1 hp
  rw [step_wordWrite_reg he hh rfl hb (regAt_nrows _), writeReg, writeNrows, passEvent_param]
  refine ⟨fun hv => ?_, fun hv => ?_⟩
  · rw [if_pos hv]
    exact ⟨_, rfl, rfl, setWidth_setWidth_of_le_64 (hv.trans hle)⟩
  · rw [if_neg (Nat.not_le.2 hv), raise_access_eq]

/-- Settles O42: the fields of PARAM hold legal parameters exactly, and no step effect touches them. -/
theorem paramNeverChanges : Obligations.ParamNeverChanges := by
  unfold Obligations.ParamNeverChanges
  refine ⟨fun s hp => ?_, fun s t h => ?_, fun s v rest he hb hh => ?_⟩
  · obtain ⟨⟨_, hdev⟩, _, hrows⟩ := (Params.ok_iff _).1 hp
    simp only [readReg, paramWord_nDev, paramWord_nRows, paramWord_rowBits, BitVec.toNat_ofNat]
    exact ⟨trivial, trivial, by omega, by omega, trivial⟩
  · have hparam := (step_effect h).param_eq
    exact ⟨congrArg paramWord hparam, hparam⟩
  · rw [step_wordWrite_reg he hh rfl hb (regAt_param _), writeReg, raise_access_eq]

end Sys2Proof.Machine
end

section
/-!
SUPPORT. The writes that the block drops with an error, one lemma per case of the order of R257; O33.
-/

namespace Sys2Proof.Machine

/-- A write of a wrong size or to a misaligned address raises ERR_ACCESS, BUSY or not (R63, R257). -/
theorem step_write_notAlignedWord {s : State} {addr : Offset} {n : Size} {v : Word} {rest : List HostOp}
    (he : engineTurn s = none) (hh : s.host = .write addr n v :: rest) (ha : n ≠ .word ∨ addr.toNat % 4 ≠ 0) :
    step s = .next { passEvent rest s with errAccess := true } := by
  have hnot : alignedWord addr n = false := (alignedWord_eq_false_iff _ _).2 ha
  rw [step_event he hh, ← raise_access_eq]
  simp [hostEvent, memWrite, hnot]

/-- A word write to an offset that is not mapped, with BUSY = 0, raises ERR_ACCESS (R64). -/
theorem step_wordWrite_unmapped {s : State} {addr : Offset} {v : Word} {rest : List HostOp}
    (he : engineTurn s = none) (hh : s.host = .write addr .word v :: rest) (ha : addr.toNat % 4 = 0)
    (hb : s.busy = false) (hr : regAt s.param addr.toNat = none) :
    step s = .next { passEvent rest s with errAccess := true } := by
  have haligned : alignedWord addr .word = true := (alignedWord_iff _ _).2 ⟨rfl, ha⟩
  rw [step_event he hh, ← raise_access_eq]
  simp [hostEvent, memWrite, haligned, hb, hr]

/-- A register other than CMD, STATUS, NROWS and those of row memory is read-only (R65). -/
theorem writeReg_readOnly {o : Reg} (v : Word) (s : State) (hcmd : o ≠ .cmd) (hstatus : o ≠ .status)
    (hnrows : o ≠ .nrows) (hlen : ∀ r, o ≠ .rowLen r) (hdata : ∀ r w, o ≠ .rowData r w) :
    writeReg v s o = raise .access s := by
  cases o
  case cmd => exact absurd rfl hcmd
  case status => exact absurd rfl hstatus
  case nrows => exact absurd rfl hnrows
  case rowLen r => exact absurd rfl (hlen r)
  case rowData r w => exact absurd rfl (hdata r w)
  all_goals rfl

/-- A write to CMD of a word that is no command issues nothing and raises ERR_ILLEGAL (R92, R250). -/
theorem writeCmd_illegal {v : Word} (s : State) (h0 : v ≠ 0#32) (h1 : v ≠ 1#32) (h2 : v ≠ 2#32) :
    writeCmd v s = raise .illegal s := by
  obtain ⟨e, hd⟩ : ∃ e, decodeWord v = .error e := by
    rw [decodeWord_eq, if_neg h0, if_neg h1, if_neg h2]
    split <;> exact ⟨_, rfl⟩
  simp [writeCmd, hd]

/-- A write to NROWS of a value above N_ROWS stores nothing and raises ERR_ACCESS (R30, R251). -/
theorem writeNrows_tooLarge {v : Word} {s : State} (hv : s.param.nRows < v.toNat) :
    writeNrows v s = raise .access s :=
  if_neg (Nat.not_le.2 hv)

/-- Settles O33: the cases of R257 in their order; a mapped target raises what its own write raises. -/
theorem writeErrorsFollowThePriority : Obligations.WriteErrorsFollowThePriority := by
  unfold Obligations.WriteErrorsFollowThePriority
  intro s addr n v rest he hh
  refine ⟨step_write_notAlignedWord he hh, ?busy, ?target, ?cmd, ?nrows⟩
  case busy =>
    rintro rfl ha hb
    exact step_wordWrite_busy he hh ha hb
  case target =>
    rintro rfl ha hb hro
    cases hr : regAt s.param addr.toNat with
    | none => exact step_wordWrite_unmapped he hh ha hb hr
    | some o =>
      obtain ⟨hcmd, hstatus, hnrows, hlen, hdata⟩ := hro o hr
      rw [step_wordWrite_reg he hh ha hb hr, writeReg_readOnly v _ hcmd hstatus hnrows hlen hdata, raise_access_eq]
  case cmd =>
    rintro rfl hb rfl h0 h1 h2
    rw [step_wordWrite_reg he hh rfl hb (regAt_cmd _), writeReg, writeCmd_illegal _ h0 h1 h2, raise_illegal_eq]
  case nrows =>
    rintro rfl hb rfl hv
    rw [step_wordWrite_reg he hh rfl hb (regAt_nrows _), writeReg, writeNrows_tooLarge (s := passEvent rest s) hv,
      raise_access_eq]

end Sys2Proof.Machine
end

section
/-!
SUPPORT. The three full words and the words outside them (spec/30_encoding.md R91, R92); O1.
-/

namespace Sys2Proof.Machine

/-- A word is made of its RSV and OP fields (R90). -/
theorem toNat_eq_rsv_op (w : Word) : w.toNat = 16 * (w.extractLsb' 4 28).toNat + (w.extractLsb' 0 4).toNat := by
  simp only [BitVec.extractLsb'_toNat, Nat.shiftRight_eq_div_pow]
  omega

/-- The two cases of R92 together leave out exactly the three full words. -/
theorem reservedOp_or_rsv_iff (w : Word) :
    (3 ≤ (w.extractLsb' 0 4).toNat ∨ w.extractLsb' 4 28 ≠ 0#28) ↔ w ≠ 0#32 ∧ w ≠ 1#32 ∧ w ≠ 2#32 := by
  have hfields := toNat_eq_rsv_op w
  have hop := (w.extractLsb' 0 4).isLt
  simp only [ne_eq, ← BitVec.toNat_inj, BitVec.toNat_ofNat]
  omega

/-- A word selects a command only if it equals the full word exactly (R91). -/
theorem decodeWord_eq_ok_iff (w : Word) (i : Instr) : decodeWord w = .ok i ↔ w = encode i := by
  constructor
  · rw [decodeWord_eq]
    split_ifs with h0 h1 h2 <;> rintro ⟨⟩
    · exact h0
    · exact h1
    · exact h2
  · rintro rfl
    cases i <;> rfl

theorem forall_ne_encode_iff (w : Word) : (∀ i, w ≠ encode i) ↔ w ≠ 0#32 ∧ w ≠ 1#32 ∧ w ≠ 2#32 := by
  refine ⟨fun h => ⟨h .nop, h .decode, h .clearTable⟩, fun ⟨h0, h1, h2⟩ i => ?_⟩
  cases i with
  | nop => exact h0
  | decode => exact h1
  | clearTable => exact h2

/-- A word that is no command, written to CMD with BUSY = 0, raises ERR_ILLEGAL and nothing else (R92, R220). -/
theorem step_cmdWrite_illegal {s : State} {v : Word} {rest : List HostOp} (he : engineTurn s = none)
    (hb : s.busy = false) (hh : s.host = .write 0x004#13 .word v :: rest) (h0 : v ≠ 0#32) (h1 : v ≠ 1#32)
    (h2 : v ≠ 2#32) : step s = .next { passEvent rest s with errIllegal := true } := by
  rw [step_wordWrite_reg he hh rfl hb (regAt_cmd _), writeReg, writeCmd_illegal _ h0 h1 h2, raise_illegal_eq]

/-- Settles O1: the words outside the three full words are those of R92, and CMD takes none of them. -/
theorem decoderAcceptsExactlyTheFullWords : Obligations.DecoderAcceptsExactlyTheFullWords := by
  unfold Obligations.DecoderAcceptsExactlyTheFullWords
  refine ⟨decodeWord_eq_ok_iff, rfl, rfl, rfl, fun w => ?illegalSet, fun s w rest he hb hh hill => ?illegalWrite⟩
  case illegalSet =>
    simp only [ne_eq, decodeWord_eq_ok_iff]
    exact (forall_ne_encode_iff w).trans (reservedOp_or_rsv_iff w).symm
  case illegalWrite =>
    obtain ⟨h0, h1, h2⟩ := (reservedOp_or_rsv_iff w).1 hill
    exact step_cmdWrite_illegal he hb hh h0 h1 h2

end Sys2Proof.Machine
end

section
/-!
SUPPORT. What the Frame Locator gives as an equivalence, and how a DECODE ends that stops before the line decoder or
reaches it (spec/40_line_decoder.md R120 to R124); O12 and O13.
-/

namespace Sys2Proof.Machine

/-! ### the locator -/

theorem locate_eq_some_iff (s : State) (r : Nat) : locate s = some r ↔
    r < s.nrows.toNat ∧ (s.rowAt r).len = 227#16 ∧ ∀ k < r, (s.rowAt k).len ≠ 227#16 :=
  ⟨locate_some_spec, fun ⟨hr, hlen, hfirst⟩ => locate_eq_some_of hr hlen hfirst⟩

/-- The scan fails only where there is no candidate: the least candidate is one it would have selected. -/
theorem locate_eq_none_iff (s : State) : locate s = none ↔ ∀ r < s.nrows.toNat, (s.rowAt r).len ≠ 227#16 := by
  constructor
  · intro hnone r
    induction r using Nat.strong_induction_on with
    | _ r ih =>
      intro hr hlen
      have hsome : locate s = some r := locate_eq_some_of hr hlen fun k hk => ih k hk (hk.trans hr)
      simp [hnone] at hsome
  · intro h
    cases hl : locate s with
    | none => rfl
    | some r =>
      obtain ⟨hr, hlen, _⟩ := locate_some_spec hl
      exact absurd hlen (h r hr)

theorem locate_congr_len {s u : State} (hn : u.nrows = s.nrows) (h : ∀ r, (u.rowAt r).len = (s.rowAt r).len) :
    locate u = locate s := by
  unfold locate
  rw [hn]
  exact locateFrom_congr h _ _

/-! ### a DECODE that ends before the line decoder -/

/-- The results of NO_CANDIDATE (R226); ROW_SEL is 0 for NO_ROW. -/
theorem noCandidateResult_finish (s : State) {reason : Reason} {r : Nat} (h : reason = .noRow → r = 0) :
    NoCandidateResult (complete (finish .noCandidate reason r [] none s)) reason r := by
  refine ⟨?_, rfl, rfl, rfl, rfl, rfl⟩
  rw [complete_result0, finish_result0_reject]
  by_cases hreason : reason = .noRow
  · simp [hreason, h hreason]
  · simp [hreason]

/-- A DECODE whose effect is NO_CANDIDATE completes with its results and the table kept. -/
theorem exec_decode_noCandidate {s : State} {reason : Reason} {r : Nat} (h : reason = .noRow → r = 0)
    (he : decodeEffect s = finish .noCandidate reason r [] none s) :
    ∃ t, exec .decode s = .next t ∧ NoCandidateResult t reason r ∧ TableKept s t := by
  refine ⟨_, exec_decode s, ?_⟩
  rw [he]
  exact ⟨noCandidateResult_finish s h, rfl, rfl⟩

/-- Settles O12: the scan's specification in both directions, and DECODE's own case for an empty scan. -/
theorem locateSelectsTheFirst227BitRow : Obligations.LocateSelectsTheFirst227BitRow := by
  unfold Obligations.LocateSelectsTheFirst227BitRow
  refine ⟨locate_eq_some_iff, locate_eq_none_iff, fun s hnone => ?_, fun _ _ => locate_congr_len⟩
  exact exec_decode_noCandidate (fun _ => rfl) (decodeEffect_noRow ((locate_eq_none_iff s).2 hnone))

/-! ### a DECODE that reaches the line decoder -/

/-- Past the pre-checks the class is no longer NO_CANDIDATE, and ROW_SEL is the selected row (R124, R226). -/
theorem decodeEffect_result0_of_line {s : State} {r : Nat} (h : ReachesLineDecoder s r) :
    (decodeEffect s).result0.outcome ≠ .noCandidate ∧ (decodeEffect s).result0.rowSel = BitVec.ofNat 6 r := by
  cases hv : validate (lineDecode (s.rowAt r)) with
  | error reason =>
    rw [decodeEffect_invalid h hv]
    rcases validate_error_reason hv with rfl | rfl | rfl <;> simp
  | ok x =>
    cases hf : filter x.id x.ch x.t s with
    | mk answer u =>
      cases answer with
      | some reason =>
        rw [decodeEffect_reject ⟨h, hv⟩ hf]
        rcases (filter_reject hf).2 with rfl | rfl <;> simp
      | none =>
        rw [decodeEffect_accept ⟨h, hv⟩ hf]
        simp

/-- Settles O13: the locator's row decides alone, by the first of the two pre-checks that it fails. -/
theorem preChecksInOrderWithoutFallback : Obligations.PreChecksInOrderWithoutFallback := by
  unfold Obligations.PreChecksInOrderWithoutFallback
  intro s r hr hlen hfirst
  have hl : locate s = some r := locate_eq_some_of hr hlen hfirst
  refine ⟨fun hpre => ?preamble, fun h0 h1 h2 h27 => ?sentinel, fun h0 h1 h2 h27 => ?passed⟩
  case preamble =>
    rw [← preambleOK_iff, Bool.not_eq_true] at hpre
    exact exec_decode_noCandidate nofun (decodeEffect_preamble hl hpre)
  case sentinel =>
    rw [ne_eq, ← sentinelOK_iff, Bool.not_eq_true] at h27
    exact exec_decode_noCandidate nofun (decodeEffect_sentinel hl ((preambleOK_iff _).2 ⟨h0, h1, h2⟩) h27)
  case passed =>
    have hline : ReachesLineDecoder s r := ⟨hl, (preambleOK_iff _).2 ⟨h0, h1, h2⟩, (sentinelOK_iff _).2 h27⟩
    exact ⟨_, exec_decode s, decodeEffect_result0_of_line hline⟩

end Sys2Proof.Machine
end

section
/-!
SUPPORT. What each step does to row memory (spec/40_line_decoder.md R132, spec/10_state.md R31 to R33); O41.
-/

namespace Sys2Proof.Machine

@[simp] theorem decodeEffect_rows (s : State) : (decodeEffect s).rows = s.rows := by
  obtain ⟨_, _, _, _, _, _, _, _, h⟩ := decodeEffect_frame s
  rw [h]

/-- A write leaves row memory as it is, unless it is a word write with BUSY = 0 to a row register. -/
theorem WriteEffect.rows_cases {addr : Offset} {n : Size} {v : Word} {s t : State} (h : WriteEffect addr n v s t) :
    t.rows = s.rows ∨ (n = .word ∧ s.busy = false ∧
      ∃ o, regAt s.param addr.toNat = some o ∧ ((∃ r, o = .rowLen r) ∨ ∃ r w, o = .rowData r w)) := by
  cases h
  case rowLen r hn hr hb => exact .inr ⟨hn, hb, _, hr, .inl ⟨r, rfl⟩⟩
  case rowData r w hn hr hb => exact .inr ⟨hn, hb, _, hr, .inr ⟨r, w, rfl⟩⟩
  all_goals exact .inl rfl

/-- Settles O41: of all step effects only reset and the two row writes touch row memory. -/
theorem onlyTheHostWritesRowMemory : Obligations.OnlyTheHostWritesRowMemory := by
  unfold Obligations.OnlyTheHostWritesRowMemory
  intro s t hstep hrows
  cases step_effect hstep
  case reset rest he hh => exact ⟨he, .inl (by rw [hh, List.head?_cons])⟩
  case write addr n v rest he hh hw =>
    rcases hw.rows_cases with hkept | ⟨rfl, hb, o, hr, ho⟩
    · exact absurd hkept hrows
    · exact ⟨he, .inr ⟨addr, v, o, by rw [hh, List.head?_cons], hb, hr, ho⟩⟩
  case decode => exact absurd (decodeEffect_rows s) hrows
  all_goals exact absurd rfl hrows

end Sys2Proof.Machine
end

section
/-!
SUPPORT. How a DECODE ends that comes to the validator, one lemma for every rejection after the line decoder
(spec/41_frame_validator.md R150 to R155, spec/44_commands.md R226); O19.
-/

namespace Sys2Proof.Machine

/-- The results of SANITY_FAILURE (R226); its reasons do not include NO_ROW, so ROW_SEL is the selected row. -/
theorem sanityResult_finish (s : State) {reason : Reason} (r : Nat) (F : Frame) (h : reason ≠ .noRow) :
    SanityResult (complete (finish .sanityFailure reason r F none s)) reason r F := by
  refine ⟨?_, rfl, rfl, rfl, rfl, rfl⟩
  rw [complete_result0, finish_result0_reject, if_neg h]

/-- A DECODE whose effect is SANITY_FAILURE completes with its results and the table kept. -/
theorem exec_decode_sanityFailure {s : State} {reason : Reason} {r : Nat} {F : Frame} (h : reason ≠ .noRow)
    (he : decodeEffect s = finish .sanityFailure reason r F none s) :
    ∃ t, exec .decode s = .next t ∧ SanityResult t reason r F ∧ TableKept s t := by
  refine ⟨_, exec_decode s, ?_⟩
  rw [he]
  exact ⟨sanityResult_finish s r F h, rfl, rfl⟩

/-- A Frame that the validator rejects ends the DECODE with the validator's reason (R150, R224). -/
theorem exec_decode_invalid {s : State} {r : Nat} {reason : Reason} (h : ReachesLineDecoder s r)
    (hv : validate (lineDecode (s.rowAt r)) = .error reason) :
    ∃ t, exec .decode s = .next t ∧ SanityResult t reason r (lineDecode (s.rowAt r)) ∧ TableKept s t := by
  have hreason : reason ≠ .noRow := by
    rcases validate_error_reason hv with rfl | rfl | rfl <;> nofun
  exact exec_decode_sanityFailure hreason (decodeEffect_invalid h hv)

/-- Settles O19: each clause is the validator's own case, carried through DECODE. -/
theorem firstFailingCheckDecidesTheReason : Obligations.FirstFailingCheckDecidesTheReason := by
  unfold Obligations.FirstFailingCheckDecidesTheReason
  rintro s r F hline rfl
  refine ⟨fun htrailer => ?trailer, fun htrailer hbcd => ?bcd, fun htrailer h7 h8 h8' hrange => ?range,
    fun htrailer h7 h8 h8' hmin hmax => ?passed⟩
  case trailer => exact exec_decode_invalid hline (validate_trailer htrailer)
  case bcd => exact exec_decode_invalid hline (validate_bcd htrailer (by omega))
  case range => exact exec_decode_invalid hline (validate_tempRange htrailer ⟨h7, h8, h8'⟩ (by omega))
  case passed => exact ⟨hline, (validate_eq_ok_iff _ _).2 ⟨htrailer, ⟨h7, h8, h8'⟩, ⟨hmin, hmax⟩, rfl⟩⟩

end Sys2Proof.Machine
end

section
/-!
SUPPORT. Nibbles and the sign bit as arithmetic on the Frame's bytes, and the temperature as a sign times a magnitude
(spec/42_field_extractor.md R171 to R176); O21.
-/

namespace Sys2Proof.Machine

theorem Frame.hi_toNat (F : Frame) (n : Nat) : (F.hi n).toNat = (F.byte n).toNat / 16 := by
  have hbyte := (F.byte n).isLt
  simp only [Frame.hi, BitVec.extractLsb'_toNat, Nat.shiftRight_eq_div_pow]
  omega

theorem Frame.lo_toNat (F : Frame) (n : Nat) : (F.lo n).toNat = (F.byte n).toNat % 16 := by
  simp [Frame.lo]

/-- The mask 0x08 of R175, as arithmetic. -/
theorem negOf_eq (F : Frame) : negOf F = decide ((F.byte 9).toNat / 8 % 2 = 1) := by
  rw [negOf, signBit, BitVec.getLsbD, Nat.testBit_eq_decide_div_mod_eq]

theorem suspiciousId_eq (id : Byte) : suspiciousId id = decide (id = 0x00#8 ∨ id = 0xFF#8) := by
  rw [Bool.eq_iff_iff]
  simp [suspiciousId]

/-- The magnitude in tenths, from the three digits' bytes (R173, R174). -/
theorem magnitudeOf_eq (F : Frame) : magnitudeOf F =
    (F.byte 8).toNat / 16 * 100 + (F.byte 8).toNat % 16 * 10 + (F.byte 7).toNat / 16 := by
  rw [magnitudeOf, tensOf, onesOf, decOf, Frame.hi_toNat, Frame.lo_toNat, Frame.hi_toNat]

/-- Three BCD digits stay below 100.0 °C (R174). -/
theorem magnitudeOf_le {F : Frame} (htens : (F.hi 8).toNat ≤ 9) (hones : (F.lo 8).toNat ≤ 9)
    (hdec : (F.hi 7).toNat ≤ 9) : magnitudeOf F ≤ 999 := by
  rw [magnitudeOf, tensOf, onesOf, decOf]
  omega

/-- The sign bit only chooses the sign of the magnitude (R175). -/
theorem tempOf_eq_sign_mul (F : Frame) : tempOf F = (if negOf F then -1 else 1) * (magnitudeOf F : Int) := by
  cases hneg : negOf F <;> simp [tempOf, hneg]

theorem natAbs_tempOf (F : Frame) : (tempOf F).natAbs = magnitudeOf F := by
  cases hneg : negOf F <;> simp [tempOf, hneg]

/-- Settles O21: the bit slices are quotients and remainders, and the size of t is the magnitude, whatever its sign. -/
theorem extractorArithmetic : Obligations.ExtractorArithmetic := by
  unfold Obligations.ExtractorArithmetic
  intro F
  have ht : (extract F).t = tempOf F := rfl
  have habs := natAbs_tempOf F
  rw [ht]
  refine ⟨?channel, rfl, suspiciousId_eq _, negOf_eq F, ?temperature, fun h8 h7 => ?zero,
    fun htens hones hdec => ?bounds⟩
  case channel => exact (channelOf_toNat F).trans (by rw [Frame.hi_toNat])
  case temperature => simp only [tempOf_eq_sign_mul, negOf_eq, magnitudeOf_eq, decide_eq_true_eq]
  case zero =>
    rw [magnitudeOf_eq] at habs
    omega
  case bounds =>
    have hmag := magnitudeOf_le htens hones hdec
    exact ⟨by omega, by omega, toInt_ofInt_of_range (by omega) (by omega)⟩

end Sys2Proof.Machine
end

section
/-!
SUPPORT. What a rejection and an acceptance by the device-state filter leave of a DECODE's results and of the table
(spec/43_device_filter.md R193 to R195, spec/44_commands.md R224, R226); O23, O24 and O25.
-/

namespace Sys2Proof.Machine

/-! ### a rejection by the filter -/

/-- A key that the filter rejects ends the DECODE with the filter's reason, and nothing is written (R193, R197). -/
theorem exec_decode_filterReject {s u : State} {r : Nat} {x : Fields} {reason : Reason} (h : ReachesFilter s r x)
    (hf : filter x.id x.ch x.t s = (some reason, u)) :
    ∃ t, exec .decode s = .next t ∧ SanityResult t reason r (lineDecode (s.rowAt r)) ∧ TableKept s t := by
  obtain ⟨rfl, hcases⟩ := filter_reject hf
  have hreason : reason ≠ .noRow := by
    rcases hcases with rfl | rfl <;> nofun
  exact exec_decode_sanityFailure hreason (decodeEffect_reject h hf)

/-- Settles O23: the comparator rejects, and a rejection keeps the table, LAST with it. -/
theorem deltaAbove120IsRejected : Obligations.DeltaAbove120IsRejected := by
  unfold Obligations.DeltaAbove120IsRejected
  intro s r k x hx hk htracked hdelta
  obtain ⟨t, hexec, hresult, hkept⟩ := exec_decode_filterReject hx (filter_delta hk htracked hdelta)
  exact ⟨t, hexec, hresult, hkept, by rw [slotAt_congr hkept.1]⟩

/-! ### an acceptance by the filter -/

/-- The results of ACCEPTED (R226). -/
theorem acceptedResult_finish (s : State) (r : Nat) (F : Frame) (x : Fields) :
    AcceptedResult (complete (finish .accepted .none r F (some x) s)) r F x :=
  ⟨rfl, rfl, rfl, rfl, rfl, rfl⟩

/-- A key that the filter accepts ends the DECODE with the reading, and the table is as the filter left it (R224). -/
theorem exec_decode_filterAccept {s u : State} {r : Nat} {x : Fields} (h : ReachesFilter s r x)
    (hf : filter x.id x.ch x.t s = (none, u)) :
    ∃ t, exec .decode s = .next t ∧ AcceptedResult t r (lineDecode (s.rowAt r)) x ∧ TableKept u t := by
  refine ⟨_, exec_decode s, ?_⟩
  rw [decodeEffect_accept h hf]
  exact ⟨acceptedResult_finish u r _ x, rfl, rfl⟩

/-- The validator's range fits LAST, so what the filter stores there is t itself (R99, R192). -/
theorem ReachesFilter.toInt_ofInt {s : State} {r : Nat} {x : Fields} (h : ReachesFilter s r x) :
    (BitVec.ofInt 16 x.t).toInt = x.t := by
  obtain ⟨_, _, hfits, _⟩ := validate_ok_bounds h.2
  exact hfits

/-- An accepted DECODE whose filter sets slot `k` to `y`: that slot alone changes, and it then holds t. -/
theorem exec_decode_setsSlot {s u : State} {r k : Nat} {x : Fields} {y : Slot} (h : ReachesFilter s r x)
    (hf : filter x.id x.ch x.t s = (none, u)) (hk : k < s.slots.length) (hu : u.slots = (setSlot k y s).slots)
    (hlast : y.last = BitVec.ofInt 16 x.t) :
    ∃ t, exec .decode s = .next t ∧ AcceptedResult t r (lineDecode (s.rowAt r)) x ∧
      t.slotAt k = y ∧ (t.slotAt k).last.toInt = x.t ∧ (∀ j, j ≠ k → t.slotAt j = s.slotAt j) ∧
      t.tableCount = u.tableCount := by
  obtain ⟨t, hexec, hresult, hslots, hcount⟩ := exec_decode_filterAccept h hf
  have hslot (j : Nat) : t.slotAt j = (setSlot k y s).slotAt j := slotAt_congr (hslots.trans hu) j
  have hself : t.slotAt k = y := (hslot k).trans (slotAt_setSlot_self y hk)
  refine ⟨t, hexec, hresult, hself, ?_, fun j hj => (hslot j).trans (slotAt_setSlot_ne y hj), hcount⟩
  rw [hself, hlast, h.toInt_ofInt]

/-- Settles O24: within 120 tenths the filter sets LAST of the key's slot. -/
theorem deltaUpTo120UpdatesLast : Obligations.DeltaUpTo120UpdatesLast := by
  unfold Obligations.DeltaUpTo120UpdatesLast
  intro s r k x hx hk htracked hdelta
  exact (exec_decode_setsSlot hx (filter_update hk htracked hdelta) hk.1 rfl rfl :)

/-- Settles O25: without a comparison the filter sets TRACKED and LAST of the key's slot. -/
theorem untrackedKeyBecomesTracked : Obligations.UntrackedKeyBecomesTracked := by
  unfold Obligations.UntrackedKeyBecomesTracked
  intro s r k x hx hk htracked
  exact (exec_decode_setsSlot hx (filter_track hk htracked) hk.1 rfl rfl :)

end Sys2Proof.Machine
end

section
/-!
SUPPORT. The free slots against TABLE_COUNT, the two answers to an unseen key, and a known key in a full table
(spec/43_device_filter.md R196, R197, spec/10_state.md R41); O26 and O27.
-/

namespace Sys2Proof.Machine

/-! ### TABLE_COUNT and the free slots -/

/-- Contiguity, over the slots the state lists (R41). -/
theorem TableInv.used_iff {s : State} (h : TableInv s) {k : Nat} (hk : k < s.slots.length) :
    (s.slotAt k).used = true ↔ k < s.tableCount.toNat :=
  h.contiguous k (h.size ▸ hk)

/-- The first free slot is Slot[TABLE_COUNT]: that one is free, and every slot before it is used (R41, R196). -/
theorem TableInv.eq_tableCount_of_firstFree {s : State} (h : TableInv s) {f : Nat} (hf : firstFree s = some f) :
    f = s.tableCount.toNat := by
  obtain ⟨hlt, hfree, hbefore⟩ := (firstFree_eq_some_iff s f).1 hf
  have hge : ¬f < s.tableCount.toNat := by
    rw [← h.used_iff hlt, hfree]
    nofun
  have hle : ¬s.tableCount.toNat < f := fun hcount =>
    absurd ((h.used_iff (hcount.trans hlt)).1 (hbefore _ hcount)) (Nat.lt_irrefl _)
  omega

/-- With no free slot TABLE_COUNT is N_DEV: Slot[TABLE_COUNT] would otherwise be free (R41, R197). -/
theorem TableInv.tableCount_eq_of_full {s : State} (h : TableInv s) (hfull : firstFree s = none) :
    s.tableCount.toNat = s.param.nDev := by
  have hused := (firstFree_eq_none_iff s).1 hfull
  have hge : ¬s.tableCount.toNat < s.slots.length := fun hcount =>
    absurd ((h.used_iff hcount).1 (hused _ hcount)) (Nat.lt_irrefl _)
  have hcapacity := h.capacity
  rw [h.size] at hge
  omega

/-- Settles O26: the filter inserts at the first free slot. -/
theorem unseenKeyTakesTheFirstFreeSlot : Obligations.UnseenKeyTakesTheFirstFreeSlot := by
  unfold Obligations.UnseenKeyTakesTheFirstFreeSlot
  intro s r f x hx hunseen hlt hfree hbefore
  have hf : firstFree s = some f := (firstFree_eq_some_iff s f).2 ⟨hlt, hfree, hbefore⟩
  obtain ⟨t, hexec, hresult, hslot, hlast, hother, hcount⟩ :=
    exec_decode_setsSlot hx (filter_insert hunseen hf) hlt rfl rfl
  exact ⟨t, hexec, hresult, hslot, hlast, hother, hcount, fun hinv => hinv.eq_tableCount_of_firstFree hf⟩

/-! ### known keys -/

/-- Both acceptances of a known key in one: its slot is then tracked and holds t (R194, R195). -/
theorem filter_holder_accept {s : State} {id : Byte} {ch : BitVec 5} {t : Int} {k : Nat} (hk : FirstHolder s id ch k)
    (h : (s.slotAt k).tracked = false ∨ (t - (s.slotAt k).last.toInt).natAbs ≤ 120) :
    filter id ch t s = (none, setSlot k { s.slotAt k with tracked := true, last := BitVec.ofInt 16 t } s) := by
  cases htracked : (s.slotAt k).tracked with
  | false => exact filter_track hk htracked
  | true =>
    rw [filter_update hk htracked (h.resolve_left (by simp [htracked])), ← htracked]

/-- Writing TRACKED and LAST of one slot leaves USED, ID and CH of every slot. -/
theorem slotAt_setSlot_key {s : State} {k : Nat} (hk : k < s.slots.length) (tracked : Bool) (last : BitVec 16)
    (j : Nat) :
    let u := setSlot k { s.slotAt k with tracked := tracked, last := last } s
    (u.slotAt j).used = (s.slotAt j).used ∧ (u.slotAt j).id = (s.slotAt j).id ∧
      (u.slotAt j).ch = (s.slotAt j).ch := by
  by_cases hj : j = k
  · simp [hj, hk]
  · simp [hj]

/-- Settles O27: an unseen key finds no slot to take, and a known key's answer asks nothing of the other slots. -/
theorem fullTableRejectsUnseenKey : Obligations.FullTableRejectsUnseenKey := by
  unfold Obligations.FullTableRejectsUnseenKey
  intro s r x hx hused
  have hfull : firstFree s = none := (firstFree_eq_none_iff s).2 hused
  refine ⟨fun hinv => hinv.tableCount_eq_of_full hfull,
    fun hunseen => exec_decode_filterReject hx (filter_full hunseen hfull), fun k hk => ?_⟩
  by_cases haccept : (s.slotAt k).tracked = false ∨ (x.t - (s.slotAt k).last.toInt).natAbs ≤ 120
  case pos =>
    obtain ⟨t, hexec, hresult, hslots, hcount⟩ := exec_decode_filterAccept hx (filter_holder_accept hk haccept)
    have hself := (slotAt_congr hslots k).trans (slotAt_setSlot_self _ hk.1)
    refine ⟨t, hexec, by simp [hslots], hcount, fun j => ?_, fun _ => ⟨hresult, ?_, ?_⟩,
      fun htracked hdelta => ?_⟩
    · rw [slotAt_congr hslots]
      exact slotAt_setSlot_key hk.1 _ _ j
    · rw [hself]
    · rw [hself, hx.toInt_ofInt]
    · have hle := haccept.resolve_left (by simp [htracked])
      omega
  case neg =>
    obtain ⟨htracked, hdelta⟩ := not_or.1 haccept
    obtain ⟨t, hexec, hresult, hslots, hcount⟩ :=
      exec_decode_filterReject hx (filter_delta hk (eq_true_of_ne_false htracked) (Nat.lt_of_not_le hdelta))
    exact ⟨t, hexec, by rw [hslots], hcount, fun j => by simp [slotAt_congr hslots], fun h => absurd h haccept,
      fun _ _ => ⟨hresult, hslots, hcount⟩⟩

end Sys2Proof.Machine
end

section
/-!
SUPPORT. The three answers to a word written to CMD, and STATUS around a command (spec/44_commands.md R220, R221); O6.
-/

namespace Sys2Proof.Machine

/-- A command's word, written to CMD with BUSY = 0, issues the command (R220). -/
theorem step_cmdWrite_issue {s : State} {rest : List HostOp} {i : Instr} (he : engineTurn s = none)
    (hb : s.busy = false) (hh : s.host = .write 0x004#13 .word (encode i) :: rest) :
    step s = .next (issue i (passEvent rest s)) := by
  have hd : decodeWord (encode i) = .ok i := (decodeWord_eq_ok_iff _ i).2 rfl
  rw [step_wordWrite_reg he hh rfl hb (regAt_cmd _), writeReg, writeCmd, hd]

/-- STATUS shows an issued command as BUSY = 1, DONE = 0 (R220). -/
theorem statusWord_issue (i : Instr) (s : State) :
    (statusWord (issue i s)).getLsbD 0 = true ∧ (statusWord (issue i s)).getLsbD 1 = false := by
  simp only [statusWord_getLsbD, busy_issue, issue_done]
  exact ⟨rfl, rfl⟩

/-- STATUS after a completion step shows DONE alone, where no error bit is set (R221). -/
theorem statusWord_complete {s : State} (hillegal : s.errIllegal = false) (hbusy : s.errBusy = false)
    (haccess : s.errAccess = false) : statusWord (complete s) = 0x00000002#32 := by
  simp [statusWord, hillegal, hbusy, haccess]

/-- Settles O6: dropped while BUSY, illegal outside the three full words, and issued otherwise. -/
theorem commandIssueFollowsR220 : Obligations.CommandIssueFollowsR220 := by
  unfold Obligations.CommandIssueFollowsR220
  intro s c rest he hh
  refine ⟨step_wordWrite_busy he hh rfl, fun hb h0 h1 h2 => step_cmdWrite_illegal he hb hh h0 h1 h2, ?issued⟩
  case issued =>
    rintro i hb rfl
    have hstep := step_cmdWrite_issue he hb hh
    refine ⟨Config.completionDelay s.draws, hstep, fun t ht => ?_⟩
    obtain rfl : issue i (passEvent rest s) = t := by simpa [hstep] using ht
    exact ⟨busy_issue _ i, statusWord_issue i _⟩

end Sys2Proof.Machine
end

section
/-!
SUPPORT. NOP, and the device table after CLEAR_TABLE (spec/44_commands.md R222, R227); O8 and O9.
-/

namespace Sys2Proof.Machine

/-- Settles O8: the completion of NOP is the bare `complete`; its issue keeps results and table as any issue does. -/
theorem nopChangesOnlyBusyAndDone : Obligations.NopChangesOnlyBusyAndDone := by
  unfold Obligations.NopChangesOnlyBusyAndDone
  refine ⟨rfl, exec_nop, fun s rest he hb hh => ?issued, fun s rest he hb hh => step_wordWrite_busy he hh rfl hb,
    fun s t hillegal hbusy haccess ht => ?status⟩
  case issued =>
    exact ⟨_, step_cmdWrite_issue (i := .nop) he hb hh, rfl, rfl, ⟨rfl, rfl, rfl, rfl, rfl, rfl⟩, rfl, rfl⟩
  case status =>
    obtain rfl : complete s = t := by simpa using ht
    exact statusWord_complete hillegal hbusy haccess

/-- Every index of a freed table reads a free slot, those past N_DEV with the others (R227). -/
@[simp] theorem slotAt_freeTable (s : State) (k : Nat) : (freeTable s).slotAt k = Slot.free := by
  rcases Nat.lt_or_ge k s.slots.length with h | h
  · rw [slotAt_of_lt (by simpa using h)]
    simp
  · exact slotAt_of_ge (by simpa using h)

/-- The two views of a free slot read 0 (R38 to R40). -/
theorem keyWord_tempWord_free : Slot.free.keyWord = 0#32 ∧ Slot.free.tempWord = 0#32 := by decide

/-- Freeing a table whose slots are free already changes nothing (R227). -/
theorem freeTable_of_empty {s : State} (hslots : ∀ x ∈ s.slots, x = Slot.free) (hcount : s.tableCount = 0#8) :
    freeTable s = s := by
  have hmap : (s.slots.map fun _ => Slot.free) = s.slots :=
    (List.map_congr_left fun x hx => (hslots x hx).symm).trans (List.map_id _)
  rw [freeTable, hmap, ← hcount]

/-- CLEAR_TABLE keeps the inputs, the error bits, the results and the host's side (R227). -/
theorem complete_freeTable_frame (s : State) :
    InputsKept s (complete (freeTable s)) ∧ ErrorsKept s (complete (freeTable s)) ∧
      ResultsKept s (complete (freeTable s)) ∧ HostKept s (complete (freeTable s)) :=
  ⟨⟨rfl, rfl, rfl, fun _ _ => rfl⟩, ⟨rfl, rfl, rfl⟩, ⟨rfl, rfl, rfl, rfl, rfl, rfl⟩, rfl, rfl, rfl⟩

/-- Settles O9: every slot of the freed table reads free; `freeTable` touches only the slots and the count. -/
theorem clearTableFreesEverySlot : Obligations.ClearTableFreesEverySlot := by
  unfold Obligations.ClearTableFreesEverySlot
  refine ⟨rfl, fun s => ⟨_, exec_clearTable s, ⟨rfl, rfl, rfl, rfl⟩, by simp, slotAt_freeTable s, rfl, rfl,
    fun k => ?views, complete_freeTable_frame s⟩, fun s t hslots hcount ht => ?empty,
    fun s rest he hb hh => step_wordWrite_busy he hh rfl hb⟩
  case views =>
    simp only [readReg, slotAt_complete, slotAt_freeTable]
    exact keyWord_tempWord_free
  case empty =>
    obtain rfl : complete (freeTable s) = t := by simpa using ht
    rw [freeTable_of_empty hslots hcount, complete]

end Sys2Proof.Machine
end

section
/-!
SUPPORT. The three sticky error bits as one function of the error's name, and what each step does to them
(spec/60_exceptions.md R250 to R253); O37.
-/

namespace Sys2Proof.Machine

/-! ### an error bit by its name -/

/-- The sticky bit that `raise e` sets (R250 to R252). -/
def errorBit (e : BusError) (s : State) : Bool :=
  match e with
  | .illegal => s.errIllegal
  | .busy => s.errBusy
  | .access => s.errAccess

/-- Where STATUS shows it (R26 to R28). -/
def BusError.statusBit : BusError → Nat
  | .illegal => 8
  | .busy => 9
  | .access => 10

theorem errorBit_congr {s t : State} (h : ErrorsKept s t) (e : BusError) : errorBit e t = errorBit e s := by
  obtain ⟨hillegal, hbusy, haccess⟩ := h
  cases e
  · exact hillegal
  · exact hbusy
  · exact haccess

theorem errorBit_raise_self (e : BusError) (s : State) : errorBit e (raise e s) = true := by
  cases e <;> simp [errorBit]

theorem errorBit_raise_ne {e e' : BusError} (h : e' ≠ e) (s : State) : errorBit e (raise e' s) = errorBit e s := by
  cases e <;> simp [errorBit, h]

/-- A write to STATUS clears the error bits that it writes as 1 (R29). -/
theorem errorBit_writeStatus (e : BusError) (v : Word) (s : State) :
    errorBit e (writeStatus v s) = (errorBit e s && !v.getLsbD e.statusBit) := by
  cases e <;> rfl

theorem errorBit_resetBlock (e : BusError) (s : State) : errorBit e (resetBlock s) = false := by
  cases e <;> rfl

/-- DECODE reports in the result registers and never in an error bit (R223). -/
theorem errorsKept_decodeEffect (s : State) : ErrorsKept s (decodeEffect s) := by
  obtain ⟨_, _, _, _, _, _, _, _, h⟩ := decodeEffect_frame s
  rw [h]
  exact ⟨rfl, rfl, rfl⟩

/-! ### what a step does to an error bit -/

/-- What an error leaves alone: the pending command and so BUSY, DONE, the inputs, the results, the table (R253). -/
def BlockKept (s t : State) : Prop :=
  t.pending = s.pending ∧ t.done = s.done ∧ InputsKept s t ∧ ResultsKept s t ∧ TableKept s t

/-- The next step is one of the two that may clear the bit of `e` (R253). -/
def ClearsErrorBit (e : BusError) (s : State) : Prop :=
  engineTurn s = none ∧ (s.host.head? = some .reset ∨
    ∃ v, s.host.head? = some (.write 0x008#13 .word v) ∧ v.getLsbD e.statusBit = true ∧ s.busy = false)

theorem blockKept_raise (e : BusError) (s : State) : BlockKept s (raise e s) :=
  ⟨rfl, rfl, ⟨rfl, rfl, rfl, fun _ _ => rfl⟩, ⟨rfl, rfl, rfl, rfl, rfl, rfl⟩, rfl, rfl⟩

/-- Raising an error sets its own bit and keeps the other two. -/
theorem errorBit_raise_cases (e e' : BusError) (s : State) :
    errorBit e (raise e' s) = errorBit e s ∨ (errorBit e (raise e' s) = true ∧ BlockKept s (raise e' s)) := by
  by_cases h : e' = e
  · rw [h]
    exact .inr ⟨errorBit_raise_self e s, blockKept_raise e s⟩
  · exact .inl (errorBit_raise_ne h s)

/-- A write keeps an error bit, raises it, or is a STATUS write with BUSY = 0 that writes it as 1. -/
theorem WriteEffect.errorBit_cases {addr : Offset} {n : Size} {v : Word} {s t : State} (h : WriteEffect addr n v s t)
    (e : BusError) : errorBit e t = errorBit e s ∨ (errorBit e t = true ∧ BlockKept s t) ∨
      (errorBit e t = false ∧ n = .word ∧ addr = 0x008#13 ∧ v.getLsbD e.statusBit = true ∧ s.busy = false) := by
  cases h
  case raised e' => exact (errorBit_raise_cases e e' s).imp_right .inl
  case status hn ha hb =>
    cases hv : v.getLsbD e.statusBit
    · left; simp [errorBit_writeStatus, hv]
    · right; right; exact ⟨by simp [errorBit_writeStatus, hv], hn, ha, rfl, hb⟩
  all_goals exact .inl (errorBit_congr ⟨rfl, rfl, rfl⟩ e)

/-- An error bit after a step: as before, raised with the block kept, or cleared by one of the two steps that may
(R253). -/
theorem StepEffect.errorBit_cases {s t : State} (h : StepEffect s t) (e : BusError) :
    errorBit e t = errorBit e s ∨ (errorBit e t = true ∧ BlockKept s t) ∨
      (errorBit e t = false ∧ ClearsErrorBit e s) := by
  cases h
  case decode => exact .inl (errorBit_congr (errorsKept_decodeEffect s) e)
  case readError rest _ _ => exact (errorBit_raise_cases e .access (passEvent rest s)).imp_right .inl
  case write addr n v rest he hh hw =>
    rcases hw.errorBit_cases e with hkept | hraised | ⟨hclear, rfl, rfl, hv, hb⟩
    · exact .inl hkept
    · exact .inr (.inl hraised)
    · exact .inr (.inr ⟨hclear, he, .inr ⟨v, by rw [hh, List.head?_cons], hv, hb⟩⟩)
  case reset rest he hh =>
    exact .inr (.inr ⟨errorBit_resetBlock e _, he, .inl (by rw [hh, List.head?_cons])⟩)
  all_goals exact .inl (errorBit_congr ⟨rfl, rfl, rfl⟩ e)

theorem StepEffect.clearsErrorBit {s t : State} (h : StepEffect s t) (e : BusError) (hs : errorBit e s = true)
    (ht : errorBit e t = false) : ClearsErrorBit e s := by
  rcases h.errorBit_cases e with hkept | ⟨hset, _⟩ | ⟨_, hclears⟩
  · simp [hs, ht] at hkept
  · simp [ht] at hset
  · exact hclears

theorem StepEffect.blockKept_of_raised {s t : State} (h : StepEffect s t) (e : BusError) (hs : errorBit e s = false)
    (ht : errorBit e t = true) : BlockKept s t := by
  rcases h.errorBit_cases e with hkept | ⟨_, hblock⟩ | ⟨hclear, _⟩
  · simp [hs, ht] at hkept
  · exact hblock
  · simp [ht] at hclear

/-- Every step goes on: the engine completes its command, or the host has its turn (R253). -/
theorem exists_step (s : State) : ∃ t, step s = .next t := by
  cases he : engineTurn s with
  | none => exact ⟨_, step_host he⟩
  | some i =>
    rw [step_engine he]
    cases i
    · exact ⟨_, exec_nop s⟩
    · exact ⟨_, exec_decode s⟩
    · exact ⟨_, exec_clearTable s⟩

/-- Settles O37: one case analysis of a step's effects on an error bit, read for each of the three. -/
theorem errorBitsAreSticky : Obligations.ErrorBitsAreSticky := by
  unfold Obligations.ErrorBitsAreSticky
  intro s
  obtain ⟨t, hstep⟩ := exists_step s
  have heffect := step_effect hstep
  refine ⟨t, hstep, heffect.clearsErrorBit .illegal, heffect.clearsErrorBit .busy, heffect.clearsErrorBit .access,
    fun hraised => ?_⟩
  rcases hraised with ⟨hs, ht⟩ | ⟨hs, ht⟩ | ⟨hs, ht⟩
  · exact heffect.blockKept_of_raised .illegal hs ht
  · exact heffect.blockKept_of_raised .busy hs ht
  · exact heffect.blockKept_of_raised .access hs ht

end Sys2Proof.Machine
end

section
/-!
SUPPORT. The state the reset input leaves, and the state right after reset (spec/70_reset_and_hazards.md R280, R281); O44.
-/

namespace Sys2Proof.Machine

/-- What R280 says of the state an instance with parameters `p` has after reset; ROW_DATA has its shape and any value. -/
def ResetValues (p : Params) (t : State) : Prop :=
  statusWord t = 0#32 ∧ t.busy = false ∧ t.pending = none ∧ t.nrows = 0#7 ∧
  t.rows.length = p.nRows ∧ (∀ r, (t.rowAt r).len = 0#16) ∧ RowMemory.wf p.nRows t.rows = true ∧
  t.result0.word = 0#32 ∧ t.result0.outcome = .none ∧ t.result1.word = 0#32 ∧
  t.frame0 = 0#32 ∧ t.frame1 = 0#32 ∧ t.frame2 = 0#32 ∧ t.frame3 = 0#32 ∧
  t.tableCount = 0#8 ∧ t.slots.length = p.nDev ∧ ∀ k, t.slotAt k = Slot.free

/-- Every index of an all-free table reads a free slot, those past N_DEV with the others (R38). -/
theorem slotAt_of_slots_replicate {s : State} {n : Nat} (h : s.slots = List.replicate n Slot.free) (k : Nat) :
    s.slotAt k = Slot.free := by
  rw [State.slotAt, h, List.getD_eq_getElem?_getD, List.getElem?_getD_replicate_default_eq]

/-- STATUS reads 0 after the reset input (R280). -/
theorem statusWord_resetBlock (s : State) : statusWord (resetBlock s) = 0#32 := by
  simp [statusWord]

/-- The two result registers read 0 at their reset values (R34, R35, R280). -/
theorem resultWords_zero : Result0.zero.word = 0#32 ∧ Result1.zero.word = 0#32 := by decide

/-- The reset input, whatever is pending, gives the block the reset values of its own parameters (R280, R281). -/
theorem resetValues_resetBlock (s : State) : ResetValues s.param (resetBlock s) := by
  have hshape := resetBlock_wf s
  have hlength : (resetBlock s).rows.length = s.param.nRows := ((RowMemory.wf_iff _ _).1 hshape).1
  have hlen (r : Nat) : ((resetBlock s).rowAt r).len = 0#16 := rowAt_drawnRows_len _ _ r _ (resetBlock_rows s)
  have hslots : (resetBlock s).slots.length = s.param.nDev := by simp
  exact ⟨statusWord_resetBlock s, rfl, rfl, rfl, hlength, hlen, hshape, resultWords_zero.1, rfl, resultWords_zero.2,
    rfl, rfl, rfl, rfl, rfl, hslots, slotAt_of_slots_replicate (resetBlock_slots s)⟩

/-- Power-on leaves what the reset input leaves an instance with draw 0 still to come and a silent host (R280). -/
theorem reset_eq_resetBlock : State.reset = resetBlock { State.reset with draws := 0 } := rfl

theorem resetValues_reset : ResetValues State.reset.param State.reset :=
  reset_eq_resetBlock ▸ resetValues_resetBlock { State.reset with draws := 0 }

/-- A reset event is the whole step: a command pending until then gets no completion in it (R281). -/
theorem step_reset {s : State} {rest : List HostOp} (he : engineTurn s = none) (hh : s.host = .reset :: rest) :
    step s = .next (resetBlock (passEvent rest s)) :=
  step_event he hh

/-- Settles O44: a reset event and power-on are the same `resetBlock`, whose every field is given by R280. -/
theorem resetGivesTheResetValues : Obligations.ResetGivesTheResetValues := by
  unfold Obligations.ResetGivesTheResetValues
  exact ⟨fun s rest he hh => ⟨_, step_reset he hh, rfl, resetValues_resetBlock (passEvent rest s)⟩, resetValues_reset⟩

end Sys2Proof.Machine
end

section
/-!
SUPPORT. Raw pairs against raw bytes and nibbles, and what the two pre-checks say of a row's pairs
(spec/30_encoding.md R105, spec/40_line_decoder.md R126 to R131, R134); O14, O15, O16 and O17.
-/

namespace Sys2Proof.Machine

/-! ### raw pairs -/

/-- Raw pair `i` stands in raw byte i / 4, most significant pair first (R93). -/
theorem rowBit_pair (row : Row) (i : Nat) :
    rowBit row (2 * i) = (rowByte row (i / 4)).getLsbD (7 - 2 * (i % 4)) ∧
      rowBit row (2 * i + 1) = (rowByte row (i / 4)).getLsbD (6 - 2 * (i % 4)) := by
  rw [rowByte_getLsbD _ _ _ (by omega), rowByte_getLsbD _ _ _ (by omega)]
  constructor <;> congr 1 <;> omega

/-- A raw byte that carries a nibble has four valid pairs, and the first bit of each is the nibble's (R105). -/
theorem rowBit_pair_of_rawOfNibble {row : Row} {i : Nat} {x : BitVec 4} (h : rowByte row (i / 4) = rawOfNibble x) :
    rowBit row (2 * i) = x.getLsbD (i % 4) ∧ rowBit row (2 * i + 1) = !x.getLsbD (i % 4) := by
  have hm : i % 4 < 4 := Nat.mod_lt _ (by omega)
  rw [(rowBit_pair row i).1, (rowBit_pair row i).2, h]
  exact rawOfNibble_getLsbD x hm

theorem pair_valid_of_rawOfNibble {row : Row} {i : Nat} {x : BitVec 4} (h : rowByte row (i / 4) = rawOfNibble x) :
    rowBit row (2 * i) ≠ rowBit row (2 * i + 1) := by
  rw [(rowBit_pair_of_rawOfNibble h).1, (rowBit_pair_of_rawOfNibble h).2]
  simp

/-- A raw byte of four valid pairs carries the nibble of their first bits (R105). -/
theorem rowByte_eq_rawOfNibble {row : Row} {j : Nat} {x : BitVec 4}
    (hvalid : ∀ m < 4, rowBit row (2 * (4 * j + m)) ≠ rowBit row (2 * (4 * j + m) + 1))
    (hx : ∀ m < 4, x.getLsbD m = rowBit row (2 * (4 * j + m))) : rowByte row j = rawOfNibble x := by
  have hpair (m : Nat) (hm : m < 4) : (rowByte row j).getLsbD (7 - 2 * m) = (rawOfNibble x).getLsbD (7 - 2 * m) ∧
      (rowByte row j).getLsbD (6 - 2 * m) = (rawOfNibble x).getLsbD (6 - 2 * m) := by
    have hbits := rowBit_pair row (4 * j + m)
    rw [show (4 * j + m) / 4 = j by omega, show (4 * j + m) % 4 = m by omega] at hbits
    rw [(rawOfNibble_getLsbD x hm).1, (rawOfNibble_getLsbD x hm).2, ← hbits.1, ← hbits.2, hx m hm]
    exact ⟨rfl, Bool.eq_not.2 (hvalid m hm).symm⟩
  apply byte_ext
  intro b hb
  obtain ⟨hodd, heven⟩ := hpair (3 - b / 2) (by omega)
  rcases Nat.mod_two_eq_zero_or_one b with hb2 | hb2
  · rwa [show 6 - 2 * (3 - b / 2) = b by omega] at heven
  · rwa [show 7 - 2 * (3 - b / 2) = b by omega] at hodd

theorem rawOfNibble_injective {x y : BitVec 4} (h : rawOfNibble x = rawOfNibble y) : x = y := by
  apply BitVec.eq_of_getLsbD_eq
  intro m hm
  rw [← (rawOfNibble_getLsbD x hm).1, ← (rawOfNibble_getLsbD y hm).1, h]

/-! ### rows and their decoded Frame -/

/-- While its pairs so far are valid, raw byte 2n carries the low nibble of decoded byte n (R105, R130). -/
theorem rowByte_even_of_valid {row : Row} {n : Nat} (hn : n < 14)
    (h : ∀ i < 8 * n + 4, rowBit row (2 * i) ≠ rowBit row (2 * i + 1)) :
    rowByte row (2 * n) = rawOfNibble ((lineDecode row).lo n) := by
  apply rowByte_eq_rawOfNibble
  · exact fun m hm => h _ (by omega)
  · intro m hm
    rw [Frame.lo_getLsbD _ _ _ hm, lineDecode_bit_of_valid row hn (by omega) fun i hi => h i (by omega)]
    congr 1
    omega

/-- While its pairs so far are valid, raw byte 2n + 1 carries the high nibble of decoded byte n (R105, R130). -/
theorem rowByte_odd_of_valid {row : Row} {n : Nat} (hn : n < 14)
    (h : ∀ i < 8 * n + 8, rowBit row (2 * i) ≠ rowBit row (2 * i + 1)) :
    rowByte row (2 * n + 1) = rawOfNibble ((lineDecode row).hi n) := by
  apply rowByte_eq_rawOfNibble
  · exact fun m hm => h _ (by omega)
  · intro m hm
    rw [Frame.hi_getLsbD _ _ _ hm, lineDecode_bit_of_valid row hn (by omega) fun i hi => h i (by omega)]
    congr 1
    omega

theorem rowByte_rowOfFrame_even (F : Frame) (tail : Word) {n : Nat} (hn : n < 14) :
    rowByte (rowOfFrame F tail) (2 * n) = rawOfNibble (F.lo n) := by
  rw [rowByte_rowOfFrame F tail (by omega), rawOfFrame, if_pos (by omega), show 2 * n / 2 = n by omega]

theorem rowByte_rowOfFrame_odd (F : Frame) (tail : Word) {n : Nat} (hn : n < 14) :
    rowByte (rowOfFrame F tail) (2 * n + 1) = rawOfNibble (F.hi n) := by
  rw [rowByte_rowOfFrame F tail (by omega), rawOfFrame, if_neg (by omega), show (2 * n + 1) / 2 = n by omega]

/-- Every pair of a coded row is valid (R105). -/
theorem pair_valid_rowOfFrame (F : Frame) (tail : Word) {i : Nat} (hi : i < 112) :
    rowBit (rowOfFrame F tail) (2 * i) ≠ rowBit (rowOfFrame F tail) (2 * i + 1) := by
  obtain ⟨hfirst, hsecond⟩ := rowBit_rowOfFrame F tail (show i / 8 < 14 by omega) (Nat.mod_lt i (by omega : 0 < 8))
  rw [Nat.div_add_mod] at hfirst hsecond
  rw [hfirst, hsecond]
  simp

/-- Decoding undoes the line coding (R105, R129). -/
theorem lineDecode_rowOfFrame {F : Frame} (tail : Word) (hF : F.length = 14) : lineDecode (rowOfFrame F tail) = F := by
  refine frame_ext (lineDecode_length _) hF fun n hn m hm => ?_
  rw [lineDecode_bit_of_valid _ hn hm fun i hi => pair_valid_rowOfFrame F tail (by omega),
    (rowBit_rowOfFrame F tail hn hm).1]

/-- Settles O14: the bits before the first invalid pair, and the bits from it on. -/
theorem lineDecodeClosedForm : Obligations.LineDecodeClosedForm := by
  unfold Obligations.LineDecodeClosedForm
  refine ⟨lineDecode_length, fun row h n hn m hm => lineDecode_bit_of_valid row hn hm fun i hi => h i (by omega),
    fun row p hp hinvalid hvalid n hn m hm => ?_⟩
  split
  case isTrue hlt => exact lineDecode_bit_of_valid row hn hm fun i hi => hvalid i (by omega)
  case isFalse hge => exact lineDecode_bit_of_invalid row hn hm (by omega) hinvalid

/-- Settles O15: a coded row's pairs are all valid and carry the Frame's bits; a row of valid pairs carries, nibble by
nibble, what it decodes to. -/
theorem lineCodingRoundTrip : Obligations.LineCodingRoundTrip := by
  unfold Obligations.LineCodingRoundTrip
  refine ⟨fun F tail hF => lineDecode_rowOfFrame tail hF, fun F tail n hn m hm => ?bits,
    fun row h n hn => ⟨rowByte_even_of_valid hn fun i hi => h i (by omega),
      rowByte_odd_of_valid hn fun i hi => h i (by omega)⟩, by decide⟩
  case bits =>
    rw [rowByte_rowOfFrame_even F tail hn, rowByte_rowOfFrame_odd F tail hn, ← Frame.lo_getLsbD F n m hm,
      ← Frame.hi_getLsbD F n m hm]
    obtain ⟨hlo, hlo'⟩ := rawOfNibble_getLsbD (F.lo n) hm
    obtain ⟨hhi, hhi'⟩ := rawOfNibble_getLsbD (F.hi n) hm
    exact ⟨hlo, hlo', hhi, hhi'⟩

/-! ### the pre-checks -/

theorem rawOfNibble_preamble_sentinel : rawOfNibble 0xF#4 = 0xAA#8 ∧ rawOfNibble 0x6#4 = 0x69#8 := by decide

/-- Raw bytes 0 to 2 of a row that passes the preamble check carry the nibble 0xF (R122). -/
theorem rowByte_of_preambleOK {row : Row} (h : preambleOK row = true) {j : Nat} (hj : j < 3) :
    rowByte row j = rawOfNibble 0xF#4 := by
  obtain ⟨h0, h1, h2⟩ := (preambleOK_iff row).1 h
  rw [rawOfNibble_preamble_sentinel.1]
  have hcases : j = 0 ∨ j = 1 ∨ j = 2 := by omega
  rcases hcases with rfl | rfl | rfl
  · exact h0
  · exact h1
  · exact h2

/-- Raw byte 27 of a row that passes the sentinel check carries the nibble 0x6 (R123). -/
theorem rowByte_of_sentinelOK {row : Row} (h : sentinelOK row = true) : rowByte row 27 = rawOfNibble 0x6#4 := by
  rw [rawOfNibble_preamble_sentinel.2]
  exact (sentinelOK_iff row).1 h

/-- The preamble fixes the first three decoded nibbles (R131). -/
theorem nibbles_of_preambleOK {row : Row} (h : preambleOK row = true) :
    (lineDecode row).lo 0 = 0xF#4 ∧ (lineDecode row).hi 0 = 0xF#4 ∧ (lineDecode row).lo 1 = 0xF#4 := by
  have hvalid (i : Nat) (hi : i < 12) : rowBit row (2 * i) ≠ rowBit row (2 * i + 1) :=
    pair_valid_of_rawOfNibble (rowByte_of_preambleOK h (by omega))
  have hraw (j : Nat) (hj : j < 3) := rowByte_of_preambleOK h hj
  exact ⟨rawOfNibble_injective ((rowByte_even_of_valid (by omega) fun i hi => hvalid i (by omega)).symm.trans
      (hraw 0 (by omega))),
    rawOfNibble_injective ((rowByte_odd_of_valid (by omega) fun i hi => hvalid i (by omega)).symm.trans
      (hraw 1 (by omega))),
    rawOfNibble_injective ((rowByte_even_of_valid (by omega) fun i hi => hvalid i (by omega)).symm.trans
      (hraw 2 (by omega)))⟩

/-- A Frame byte of two nibbles 0xF is 0xFF, and conversely. -/
theorem Frame.byte_eq_ff_iff (F : Frame) (n : Nat) : F.byte n = 0xFF#8 ↔ F.lo n = 0xF#4 ∧ F.hi n = 0xF#4 := by
  have hbyte := (F.byte n).isLt
  simp only [← BitVec.toNat_inj, Frame.lo_toNat, Frame.hi_toNat, BitVec.toNat_ofNat]
  omega

/-- A coded Frame with the three fixed fields passes both pre-checks (R122, R123). -/
theorem preChecks_rowOfFrame {F : Frame} (tail : Word) (h0 : F.byte 0 = 0xFF#8) (h1 : F.lo 1 = 0xF#4)
    (h13 : F.hi 13 = 0x6#4) :
    preambleOK (rowOfFrame F tail) = true ∧ sentinelOK (rowOfFrame F tail) = true := by
  obtain ⟨hlo, hhi⟩ := (F.byte_eq_ff_iff 0).1 h0
  obtain ⟨hpreamble, hsentinel⟩ := rawOfNibble_preamble_sentinel
  rw [preambleOK_iff, sentinelOK_iff, ← hpreamble, ← hsentinel, ← h13]
  refine ⟨⟨?_, ?_, ?_⟩, rowByte_rowOfFrame_odd F tail (n := 13) (by omega)⟩
  · rw [← hlo]; exact rowByte_rowOfFrame_even F tail (n := 0) (by omega)
  · rw [← hhi]; exact rowByte_rowOfFrame_odd F tail (n := 0) (by omega)
  · rw [← h1]; exact rowByte_rowOfFrame_even F tail (n := 1) (by omega)

/-- Settles O16: the checked raw bytes carry known nibbles; the coded row of a Frame with those nibbles passes. -/
theorem preChecksFixTheseFrameBits : Obligations.PreChecksFixTheseFrameBits := by
  unfold Obligations.PreChecksFixTheseFrameBits
  refine ⟨fun row h => ?preamble, fun row h hvalid => ?sentinel, fun F hF h0 h1 h13 => ?onto⟩
  case preamble =>
    obtain ⟨hlo0, hhi0, hlo1⟩ := nibbles_of_preambleOK h
    exact ⟨(Frame.byte_eq_ff_iff _ 0).2 ⟨hlo0, hhi0⟩, hlo1⟩
  case sentinel =>
    have hraw := rowByte_odd_of_valid (n := 13) (by omega) fun i hi => hvalid i (by omega)
    exact rawOfNibble_injective (hraw.symm.trans (rowByte_of_sentinelOK h))
  case onto =>
    obtain ⟨hpreamble, hsentinel⟩ := preChecks_rowOfFrame 0#32 h0 h1 h13
    exact ⟨rowOfFrame F 0#32, rfl, hpreamble, hsentinel, lineDecode_rowOfFrame 0#32 hF⟩

/-- An invalid pair of a row with the sentinel lies before raw byte 27 and zeroes Frame[13][6], which TRAILER has set
(R127, R134). -/
theorem trailer_ne_of_invalid {row : Row} {i : Nat} (hsentinel : sentinelOK row = true) (hi : i < 112)
    (h : rowBit row (2 * i) = rowBit row (2 * i + 1)) : (lineDecode row).byte 13 ≠ 0x65#8 := by
  have hbefore : i / 4 ≠ 27 := fun hj =>
    pair_valid_of_rawOfNibble (by rw [hj]; exact rowByte_of_sentinelOK hsentinel) h
  have hzero : ((lineDecode row).byte 13).getLsbD 6 = false :=
    lineDecode_bit_of_invalid row (by omega) (by omega) (by omega) h
  intro htrailer
  rw [htrailer] at hzero
  exact absurd hzero (by decide)

/-- Settles O17: the row's Frame fails check 1. -/
theorem invalidPairEndsInTrailer : Obligations.InvalidPairEndsInTrailer := by
  unfold Obligations.InvalidPairEndsInTrailer
  intro s r i hline hi hinvalid
  have ⟨_, _, hsentinel⟩ := hline
  exact exec_decode_invalid hline (validate_trailer (trailer_ne_of_invalid hsentinel hi hinvalid))

end Sys2Proof.Machine
end

section
/-!
SUPPORT. A DECODE either rejects, and then leaves the table, or accepts through the filter; what it leaves unchanged and
what the host reads of it (spec/44_commands.md R223 to R229); O10, O11 and O51.
-/

namespace Sys2Proof.Machine

/-! ### the two kinds of outcome -/

/-- Everything DECODE can do, in two cases: a rejection of the state as it stands, with a reason other than CHANNEL and
a Frame only where one was decoded, or the acceptance of the filter (R224, R226). -/
theorem decodeEffect_reject_or_accept (s : State) :
    (∃ cls reason r F, reason.rejectClass = some cls ∧ reason ≠ .channel ∧ (reason = .noRow ∨ locate s = some r) ∧
      (cls = .noCandidate ∨ F = lineDecode (s.rowAt r)) ∧ decodeEffect s = finish cls reason r F none s) ∨
    (∃ r x u, ReachesFilter s r x ∧ filter x.id x.ch x.t s = (none, u) ∧
      decodeEffect s = finish .accepted .none r (lineDecode (s.rowAt r)) (some x) u) := by
  rcases decodeEffect_cases s with ⟨_, h⟩ | ⟨r, hl, _, h⟩ | ⟨r, hl, _, _, h⟩ | ⟨r, reason, hr, _, hreason, h⟩ |
    ⟨r, x, reason, hx, _, hreason, h⟩ | haccept
  · exact .inl ⟨.noCandidate, .noRow, 0, [], rfl, nofun, .inl rfl, .inl rfl, h⟩
  · exact .inl ⟨.noCandidate, .preamble, r, [], rfl, nofun, .inr hl, .inl rfl, h⟩
  · exact .inl ⟨.noCandidate, .sentinel, r, [], rfl, nofun, .inr hl, .inl rfl, h⟩
  · have hclass : reason.rejectClass = some .sanityFailure ∧ reason ≠ .channel := by
      rcases hreason with rfl | rfl | rfl <;> exact ⟨rfl, nofun⟩
    exact .inl ⟨_, reason, r, _, hclass.1, hclass.2, .inr hr.1, .inr rfl, h⟩
  · have hclass : reason.rejectClass = some .sanityFailure ∧ reason ≠ .channel := by
      rcases hreason with rfl | rfl <;> exact ⟨rfl, nofun⟩
    exact .inl ⟨_, reason, r, _, hclass.1, hclass.2, .inr hx.1.1, .inr rfl, h⟩
  · exact .inr haccept

/-- The reasons of each class, but for CHANNEL (R98, R254). -/
theorem Reason.class_cases {reason : Reason} {cls : OutcomeClass} (h : reason.rejectClass = some cls)
    (hchannel : reason ≠ .channel) :
    (cls = .noCandidate ∧ (reason = .noRow ∨ reason = .preamble ∨ reason = .sentinel)) ∨
    (cls = .sanityFailure ∧ (reason = .trailer ∨ reason = .bcd ∨ reason = .tempRange ∨ reason = .delta ∨
      reason = .tableFull)) := by
  cases reason <;> simp_all [Reason.rejectClass]

theorem Reason.ne_accepted_of_rejectClass {reason : Reason} {cls : OutcomeClass}
    (h : reason.rejectClass = some cls) : cls ≠ .accepted := by
  rintro rfl
  cases reason <;> cases h

theorem decodeEffect_accepted {s : State} (h : (decodeEffect s).result0.outcome = .accepted) :
    ∃ r x u, ReachesFilter s r x ∧ filter x.id x.ch x.t s = (none, u) ∧
      decodeEffect s = finish .accepted .none r (lineDecode (s.rowAt r)) (some x) u := by
  rcases decodeEffect_reject_or_accept s with ⟨cls, reason, r, F, hclass, _, _, _, he⟩ | haccept
  · rw [he, finish_result0_reject] at h
    exact absurd h (Reason.ne_accepted_of_rejectClass hclass)
  · exact haccept

theorem decodeEffect_rejected {s : State} (h : (decodeEffect s).result0.outcome ≠ .accepted) :
    ∃ cls reason r F, reason.rejectClass = some cls ∧ reason ≠ .channel ∧
      decodeEffect s = finish cls reason r F none s := by
  rcases decodeEffect_reject_or_accept s with ⟨cls, reason, r, F, hclass, hchannel, _, _, he⟩ | ⟨r, x, u, _, _, he⟩
  · exact ⟨cls, reason, r, F, hclass, hchannel, he⟩
  · exact absurd (by rw [he, finish_result0_accept]) h

/-! ### outcome and Reading -/

theorem readingOf_eq_none {t : State} (h : t.result0.outcome ≠ .accepted) : readingOf t = none :=
  if_neg h

/-- Settles O10: a rejection's class and reason belong together; an acceptance has no reason. -/
theorem decodeGivesOneClassifiedOutcome : Obligations.DecodeGivesOneClassifiedOutcome := by
  unfold Obligations.DecodeGivesOneClassifiedOutcome
  intro s
  refine ⟨_, exec_decode s, ⟨rfl, rfl, rfl, rfl⟩, ?classified, fun h => ⟨?noFields, readingOf_eq_none h⟩,
    errorsKept_decodeEffect s⟩
  case classified =>
    rw [complete_result0]
    rcases decodeEffect_reject_or_accept s with ⟨cls, reason, r, F, hclass, hchannel, _, _, he⟩ | ⟨r, x, u, _, _, he⟩
    · rw [he, finish_result0_reject]
      exact .inr (Reason.class_cases hclass hchannel)
    · rw [he]
      exact .inl ⟨rfl, rfl⟩
  case noFields =>
    obtain ⟨cls, reason, r, F, _, _, he⟩ := decodeEffect_rejected h
    rw [he]
    rfl

/-- Settles O51: an acceptance stores the fields that the validator has bounded. -/
theorem readingAfterAcceptance : Obligations.ReadingAfterAcceptance := by
  unfold Obligations.ReadingAfterAcceptance
  intro s t hexec
  obtain rfl : complete (decodeEffect s) = t := by simpa using hexec
  refine ⟨fun haccepted => ?_, readingOf_eq_none⟩
  obtain ⟨r, x, u, hx, _, he⟩ := decodeEffect_accepted haccepted
  obtain ⟨hmin, hmax, _, hchMin, hchMax⟩ := validate_ok_bounds hx.2
  refine ⟨r, x, hx, ?_, hmin, hmax, hchMin, hchMax⟩
  simp [readingOf, he, hx.toInt_ofInt]

/-! ### the frame -/

/-- DECODE keeps the inputs, the error bits and the host's side (R132, R223). -/
theorem complete_decodeEffect_frame (s : State) : InputsKept s (complete (decodeEffect s)) ∧
    ErrorsKept s (complete (decodeEffect s)) ∧ HostKept s (complete (decodeEffect s)) := by
  obtain ⟨_, _, _, _, _, _, _, _, h⟩ := decodeEffect_frame s
  rw [h]
  exact ⟨⟨rfl, rfl, rfl, fun _ _ => rfl⟩, ⟨rfl, rfl, rfl⟩, rfl, rfl, rfl⟩

/-- A DECODE that comes to the filter leaves the table that the filter leaves (R224). -/
theorem ReachesFilter.tableKept {s : State} {r : Nat} {x : Fields} (h : ReachesFilter s r x) :
    TableKept (filter x.id x.ch x.t s).2 (decodeEffect s) := by
  cases hf : filter x.id x.ch x.t s with
  | mk answer u =>
    cases answer with
    | some reason => rw [decodeEffect_reject h hf]; exact ⟨rfl, rfl⟩
    | none => rw [decodeEffect_accept h hf]; exact ⟨rfl, rfl⟩

theorem decodeEffect_tableKept {s : State} (h : (decodeEffect s).result0.outcome ≠ .accepted) :
    TableKept s (decodeEffect s) := by
  obtain ⟨_, _, _, _, _, _, he⟩ := decodeEffect_rejected h
  rw [he]
  exact ⟨rfl, rfl⟩

/-- The table keeps its size (R194 to R196). -/
theorem decodeEffect_slots_length (s : State) : (decodeEffect s).slots.length = s.slots.length := by
  by_cases h : (decodeEffect s).result0.outcome = .accepted
  · obtain ⟨r, x, _, hx, _, _⟩ := decodeEffect_accepted h
    rw [hx.tableKept.1, (filter_other_slots s x.id x.ch x.t).1]
  · rw [(decodeEffect_tableKept h).1]

end Sys2Proof.Machine

namespace Sys2Proof

open Machine

/-- Settles O11: the table is written by the filter alone, and the filter writes its own slot. -/
theorem decodeFrame : Obligations.DecodeFrame := by
  unfold Obligations.DecodeFrame
  intro s t hexec
  obtain rfl : complete (decodeEffect s) = t := by simpa using hexec
  obtain ⟨hinputs, herrors, hhost⟩ := complete_decodeEffect_frame s
  refine ⟨⟨rfl, rfl, rfl, rfl⟩, hinputs, herrors, hhost, decodeEffect_tableKept, decodeEffect_slots_length s,
    fun r x hx j hj => ?others, fun haccepted => ?accepted⟩
  case others => exact (slotAt_congr hx.tableKept.1 j).trans ((filter_other_slots s x.id x.ch x.t).2 j hj)
  case accepted =>
    obtain ⟨r, x, u, hx, hf, he⟩ := decodeEffect_accepted haccepted
    obtain ⟨k, hk, hlt, hother, hunseen, hseen⟩ := filter_accept hf
    rw [he]
    exact ⟨r, x, k, hx, hk, hlt, hother, hunseen, hseen⟩

end Sys2Proof
end

section
/-!
SUPPORT. What each step does to the results and to the table, and to a tracked slot in it
(spec/43_device_filter.md R200, spec/41_frame_validator.md R157); O20 and O29.
-/

namespace Sys2Proof.Machine

/-! ### the steps that write results or table -/

/-- No bus write reaches a result register or the table (R65). -/
theorem WriteEffect.results_table_kept {addr : Offset} {n : Size} {v : Word} {s t : State}
    (h : WriteEffect addr n v s t) : ResultsKept s t ∧ TableKept s t := by
  cases h <;> exact ⟨⟨rfl, rfl, rfl, rfl, rfl, rfl⟩, rfl, rfl⟩

/-- Results and table after a step: as before, unless it is DECODE's or CLEAR_TABLE's completion or a reset. -/
theorem StepEffect.results_table_cases {s t : State} (h : StepEffect s t) :
    (ResultsKept s t ∧ TableKept s t) ∨ (engineTurn s = some .decode ∧ t = complete (decodeEffect s)) ∨
    (engineTurn s = some .clearTable ∧ t = complete (freeTable s)) ∨
    (engineTurn s = none ∧ ∃ rest, s.host = .reset :: rest ∧ t = resetBlock (passEvent rest s)) := by
  cases h
  case decode he => exact .inr (.inl ⟨he, rfl⟩)
  case clearTable he => exact .inr (.inr (.inl ⟨he, rfl⟩))
  case reset rest he hh => exact .inr (.inr (.inr ⟨he, rest, hh, rfl⟩))
  case write hw => exact .inl hw.results_table_kept
  all_goals exact .inl ⟨⟨rfl, rfl, rfl, rfl, rfl, rfl⟩, rfl, rfl⟩

/-- Settles O20: a nibble plus one lies in 1..16, and no way through DECODE gives the reason CHANNEL. -/
theorem reasonChannelIsUnreachable : Obligations.ReasonChannelIsUnreachable := by
  unfold Obligations.ReasonChannelIsUnreachable
  refine ⟨fun F => ⟨channelOK_true F, by omega, by omega⟩, fun s t hstep hreason => ?_⟩
  rcases (step_effect hstep).results_table_cases with ⟨⟨hresult0, _⟩, _⟩ | ⟨_, rfl⟩ | ⟨_, rfl⟩ | ⟨_, _, _, rfl⟩
  · rwa [hresult0] at hreason
  · rw [complete_result0] at hreason
    rcases decodeEffect_reject_or_accept s with ⟨cls, reason, r, F, _, hchannel, _, _, he⟩ | ⟨r, x, u, _, _, he⟩
    · rw [he, finish_result0_reject] at hreason
      exact absurd hreason hchannel
    · rw [he] at hreason
      cases hreason
  · exact hreason
  · cases hreason

/-! ### a tracked slot -/

/-- The two ways to an acceptance: the slot that holds the key becomes tracked at t, or the first free slot takes the key
(R194 to R196). -/
theorem filter_accept_cases {s u : State} {id : Byte} {ch : BitVec 5} {t : Int} (h : filter id ch t s = (none, u)) :
    (∃ k, FirstHolder s id ch k ∧ ((s.slotAt k).tracked = false ∨ (t - (s.slotAt k).last.toInt).natAbs ≤ 120) ∧
      u = setSlot k { s.slotAt k with tracked := true, last := BitVec.ofInt 16 t } s) ∨
    (∃ f, Unseen s id ch ∧ firstFree s = some f ∧ u = inserted f (freshSlot id ch t) s) := by
  have hknown {k : Nat} (hk : FirstHolder s id ch k)
      (hc : (s.slotAt k).tracked = false ∨ (t - (s.slotAt k).last.toInt).natAbs ≤ 120) :
      u = setSlot k { s.slotAt k with tracked := true, last := BitVec.ofInt 16 t } s :=
    (Prod.mk.inj (h.symm.trans (filter_holder_accept hk hc))).2
  rcases filter_cases s id ch t with ⟨k, _, _, _, h'⟩ | ⟨k, hk, _, hdelta, _⟩ | ⟨k, hk, hfresh, _⟩ |
    ⟨f, hunseen, hfree, h'⟩ | ⟨_, _, h'⟩
  case inr.inl => exact .inl ⟨k, hk, .inr hdelta, hknown hk (.inr hdelta)⟩
  case inr.inr.inl => exact .inl ⟨k, hk, .inl hfresh, hknown hk (.inl hfresh)⟩
  case inr.inr.inr.inl => exact .inr ⟨f, hunseen, hfree, (Prod.mk.inj (h.symm.trans h')).2⟩
  all_goals cases (Prod.mk.inj (h.symm.trans h')).1

/-- The filter changes a used and tracked slot only to set LAST, for the slot's own key and within 120 tenths (R194). -/
theorem filter_changes_tracked {s u : State} {id : Byte} {ch : BitVec 5} {t : Int} {k : Nat}
    (hf : filter id ch t s = (none, u)) (hused : (s.slotAt k).used = true) (htracked : (s.slotAt k).tracked = true)
    (hchanged : u.slotAt k ≠ s.slotAt k) :
    id = (s.slotAt k).id ∧ ch = (s.slotAt k).ch ∧ (t - (s.slotAt k).last.toInt).natAbs ≤ 120 ∧
      u.slotAt k = { s.slotAt k with last := BitVec.ofInt 16 t } := by
  rcases filter_accept_cases hf with ⟨j, hj, hdelta, rfl⟩ | ⟨f, _, hfree, rfl⟩
  · obtain rfl : k = j := by_contra fun hne => hchanged (slotAt_setSlot_ne _ hne)
    obtain ⟨hlt, _, hid, hch, _⟩ := hj
    exact ⟨hid.symm, hch.symm, hdelta.resolve_left (by simp [htracked]),
      by rw [slotAt_setSlot_self _ hlt, ← htracked]⟩
  · obtain rfl : k = f := by_contra fun hne => hchanged (slotAt_setSlot_ne (s := s) _ hne)
    obtain ⟨_, hunused, _⟩ := (firstFree_eq_some_iff s k).1 hfree
    simp [hused] at hunused

/-- Settles O29: of the steps that write the table, DECODE is the one to look into, and there the filter. -/
theorem trackedSlotChangesOnlySo : Obligations.TrackedSlotChangesOnlySo := by
  unfold Obligations.TrackedSlotChangesOnlySo
  intro s t k hstep hused htracked hchanged
  rcases (step_effect hstep).results_table_cases with ⟨_, hslots, _⟩ | ⟨he, rfl⟩ | ⟨he, rfl⟩ | ⟨he, rest, hh, rfl⟩
  · exact absurd (slotAt_congr hslots k) hchanged
  · have haccepted : (decodeEffect s).result0.outcome = .accepted := by_contra fun hrejected =>
      hchanged (slotAt_congr (decodeEffect_tableKept hrejected).1 k)
    obtain ⟨r, x, u, hx, hf, heffect⟩ := decodeEffect_accepted haccepted
    have hslot : (complete (decodeEffect s)).slotAt k = u.slotAt k := slotAt_congr (by simp [heffect]) k
    rw [hslot] at hchanged ⊢
    obtain ⟨hid, hch, hdelta, hlast⟩ := filter_changes_tracked hf hused htracked hchanged
    exact .inr (.inr ⟨he, haccepted, r, x, hx, hid, hch, hdelta, hlast⟩)
  · exact .inl ⟨he, slotAt_freeTable s k⟩
  · exact .inr (.inl ⟨he, by rw [hh, List.head?_cons]⟩)

end Sys2Proof.Machine
end

section
/-!
SUPPORT. What the host can do while a command is pending, and that the command completes after it
(spec/44_commands.md R221, spec/20_memory.md R73 to R75); O4, O5, O7 and O35.
-/

namespace Sys2Proof.Machine

/-! ### completion steps and runs -/

/-- Every command's completion step ends with nothing pending, BUSY = 0 and DONE = 1 (R221). -/
theorem exists_exec_completed (i : Instr) (s : State) : ∃ t, exec i s = .next t ∧ Completed t := by
  cases i
  · exact ⟨_, exec_nop s, rfl, rfl, rfl, rfl⟩
  · exact ⟨_, exec_decode s, rfl, rfl, rfl, rfl⟩
  · exact ⟨_, exec_clearTable s, rfl, rfl, rfl, rfl⟩

theorem completed_of_exec {i : Instr} {s t : State} (h : exec i s = .next t) : Completed t := by
  obtain ⟨u, hu, hcompleted⟩ := exists_exec_completed i s
  obtain rfl : u = t := by simpa [hu] using h
  exact hcompleted

/-- A run goes on from where its first part ends. -/
theorem core_run_add {j k : Nat} {s u : State} (h : Sys2Proof.core.run j s = .next u) :
    Sys2Proof.core.run (j + k) s = Sys2Proof.core.run k u := by
  induction j generalizing s with
  | zero =>
    obtain rfl : s = u := Host.Outcome.next.inj h
    rw [Nat.zero_add]
  | succ j ih =>
    obtain ⟨t, ht⟩ := exists_step s
    rw [core_run_succ ht] at h
    rw [Nat.add_right_comm, core_run_succ ht, ih h]

/-- A run of one step. -/
theorem core_run_one {s t : State} (h : step s = .next t) : Sys2Proof.core.run 1 s = .next t :=
  core_run_succ h

/-- Settles O5: a run goes on by one more step. -/
theorem noRunEverStops : Obligations.NoRunEverStops := by
  unfold Obligations.NoRunEverStops
  refine ⟨exists_step, fun k => ?_⟩
  induction k with
  | zero => exact fun s => ⟨s, rfl⟩
  | succ k ih =>
    intro s
    obtain ⟨t, ht⟩ := exists_step s
    obtain ⟨u, hu⟩ := ih t
    exact ⟨u, (core_run_succ ht).trans hu⟩

/-- A word that decodes is placed as the pending command, its completion step next (log entry 12). -/
theorem withFetchWord_eq {w : Word} {i : Instr} (h : decodeWord w = .ok i) (s : State) :
    s.withFetchWord 32 w.toNat = { s with pending := some i, done := false, wait := 0 } := by
  simp [State.withFetchWord, placeWord, decodeTableWord_toNat, h]

/-- Settles O4: `step` is decided by `engineTurn`, and a placed word gives the engine its turn. -/
theorem stepRunsThePendingCommand : Obligations.StepRunsThePendingCommand := by
  unfold Obligations.StepRunsThePendingCommand
  refine ⟨fun s i hp hturn => step_engine ((engineTurn_eq_some_iff s i).2 ⟨hp, hturn⟩),
    fun s hturn => step_host ((engineTurn_eq_none_iff s).2 hturn), fun s w i hd => ?_⟩
  rw [withFetchWord_eq hd]
  exact ⟨step_engine ((engineTurn_eq_some_iff _ i).2 ⟨rfl, .inl rfl⟩), rfl⟩

/-! ### host events while BUSY -/

/-- A write that meets BUSY is dropped with an error (R63, R66). -/
theorem memWrite_busy (addr : Offset) (n : Size) (v : Word) {s : State} (hb : s.busy = true) :
    ∃ e, memWrite addr n v s = raise e s := by
  cases ha : alignedWord addr n with
  | true => exact ⟨.busy, by simp [memWrite, ha, hb]⟩
  | false => exact ⟨.access, by simp [memWrite, ha]⟩

/-- A host event other than reset that meets BUSY leaves the block but for its error bits, counts against the delay, and
is taken off the host's list or stays at its head (R73 to R75, R101). -/
theorem hostEvent_busy {op : HostOp} {rest : List HostOp} {s : State} (hb : s.busy = true) (hop : op ≠ .reset) :
    BlockKept s (hostEvent op rest s) ∧ (hostEvent op rest s).wait = s.wait - 1 ∧
      ((hostEvent op rest s).host = rest ∨ (hostEvent op rest s).host = op :: rest) := by
  cases op with
  | read addr n =>
    simp only [hostEvent]
    rcases memRead_cases addr n (passEvent rest s) with ⟨o, _, _, hm⟩ | ⟨_, hm⟩ <;> rw [hm]
    · exact ⟨⟨rfl, rfl, ⟨rfl, rfl, rfl, fun _ _ => rfl⟩, ⟨rfl, rfl, rfl, rfl, rfl, rfl⟩, rfl, rfl⟩, rfl, .inl rfl⟩
    · exact ⟨blockKept_raise .access s, rfl, .inl rfl⟩
  | write addr n v =>
    obtain ⟨e, hm⟩ := memWrite_busy addr n v (s := passEvent rest s) hb
    simp only [hostEvent]
    rw [hm]
    exact ⟨blockKept_raise e s, rfl, .inl rfl⟩
  | poll =>
    simp only [hostEvent, hb, if_true]
    exact ⟨⟨rfl, rfl, ⟨rfl, rfl, rfl, fun _ _ => rfl⟩, ⟨rfl, rfl, rfl, rfl, rfl, rfl⟩, rfl, rfl⟩, rfl, .inr rfl⟩
  | reset => exact absurd rfl hop

/-- Settles O35: a step that leaves a command pending is a host event other than reset. -/
theorem pendingCommandSeesFrozenInputs : Obligations.PendingCommandSeesFrozenInputs := by
  unfold Obligations.PendingCommandSeesFrozenInputs
  intro s t i hs hstep ht
  have hb : s.busy = true := (busy_eq_true_iff s).2 ⟨i, hs⟩
  cases he : engineTurn s with
  | some j =>
    rw [step_engine he] at hstep
    obtain ⟨hidle, _⟩ := completed_of_exec hstep
    simp [hidle] at ht
  | none =>
    rw [step_host he] at hstep
    obtain rfl : hostTurn s = t := by simpa using hstep
    cases hh : s.host with
    | nil => simp [engineTurn, hs, hh] at he
    | cons op rest =>
      rw [hostTurn, hh] at ht ⊢
      by_cases hop : op = .reset
      · subst hop
        cases ht
      · obtain ⟨⟨_, hdone, hinputs, hresults, htable⟩, _⟩ := hostEvent_busy (rest := rest) hb hop
        exact ⟨hinputs, hresults, htable, hdone⟩

/-! ### the way to the completion step -/

theorem BlockKept.refl (s : State) : BlockKept s s :=
  ⟨rfl, rfl, ⟨rfl, rfl, rfl, fun _ _ => rfl⟩, ⟨rfl, rfl, rfl, rfl, rfl, rfl⟩, rfl, rfl⟩

theorem InputsKept.trans {s t u : State} (hst : InputsKept s t) (htu : InputsKept t u) : InputsKept s u := by
  obtain ⟨hparam, hnrows, hrows, hbytes⟩ := hst
  obtain ⟨hparam', hnrows', hrows', hbytes'⟩ := htu
  exact ⟨hparam'.trans hparam, hnrows'.trans hnrows, hrows'.trans hrows, fun r j => (hbytes' r j).trans (hbytes r j)⟩

theorem ResultsKept.trans {s t u : State} (hst : ResultsKept s t) (htu : ResultsKept t u) : ResultsKept s u := by
  obtain ⟨h0, h1, hf0, hf1, hf2, hf3⟩ := hst
  obtain ⟨h0', h1', hf0', hf1', hf2', hf3'⟩ := htu
  exact ⟨h0'.trans h0, h1'.trans h1, hf0'.trans hf0, hf1'.trans hf1, hf2'.trans hf2, hf3'.trans hf3⟩

theorem ErrorsKept.trans {s t u : State} (hst : ErrorsKept s t) (htu : ErrorsKept t u) : ErrorsKept s u := by
  obtain ⟨hillegal, hbusy, haccess⟩ := hst
  obtain ⟨hillegal', hbusy', haccess'⟩ := htu
  exact ⟨hillegal'.trans hillegal, hbusy'.trans hbusy, haccess'.trans haccess⟩

theorem BlockKept.trans {s t u : State} (hst : BlockKept s t) (htu : BlockKept t u) : BlockKept s u := by
  obtain ⟨hpending, hdone, hinputs, hresults, hslots, hcount⟩ := hst
  obtain ⟨hpending', hdone', hinputs', hresults', hslots', hcount'⟩ := htu
  exact ⟨hpending'.trans hpending, hdone'.trans hdone, hinputs.trans hinputs', hresults.trans hresults',
    hslots'.trans hslots, hcount'.trans hcount⟩

/-- Within its delay a pending command comes to its completion step, or the host's list to a reset; until then the block
stands still. -/
theorem run_to_turn_or_reset (i : Instr) : ∀ (n : Nat) (s : State), s.wait = n → s.pending = some i →
    ∃ k ≤ n, ∃ u, Sys2Proof.core.run k s = .next u ∧ BlockKept s u ∧ (engineTurn u = some i ∨
      (engineTurn u = none ∧ (∃ rest, u.host = .reset :: rest) ∧ .reset ∈ s.host)) := by
  intro n
  induction n with
  | zero =>
    intro s hw hp
    exact ⟨0, Nat.le_refl 0, s, rfl, .refl s, .inl ((engineTurn_eq_some_iff s i).2 ⟨hp, .inl hw⟩)⟩
  | succ n ih =>
    intro s hw hp
    cases hh : s.host with
    | nil => exact ⟨0, Nat.zero_le _, s, rfl, .refl s, .inl ((engineTurn_eq_some_iff s i).2 ⟨hp, .inr hh⟩)⟩
    | cons op rest =>
      have he : engineTurn s = none := (engineTurn_eq_none_iff s).2 (.inr ⟨by omega, by simp [hh]⟩)
      by_cases hop : op = .reset
      · subst hop
        exact ⟨0, Nat.zero_le _, s, rfl, .refl s, .inr ⟨he, ⟨rest, hh⟩, List.mem_cons_self⟩⟩
      · obtain ⟨hkept, hwait, hhost⟩ := hostEvent_busy (rest := rest) ((busy_eq_true_iff s).2 ⟨i, hp⟩) hop
        obtain ⟨k, hk, u, hrun, hkept', hend⟩ := ih (hostEvent op rest s) (by omega) (hkept.1.trans hp)
        refine ⟨k + 1, by omega, u, (core_run_succ (step_event he hh)).trans hrun, hkept.trans hkept',
          hend.imp_right fun ⟨he', hreset, hmem⟩ => ⟨he', hreset, ?_⟩⟩
        rcases hhost with hhost | hhost <;> rw [hhost] at hmem
        · exact List.mem_cons_of_mem _ hmem
        · exact hmem

/-- Settles O7: the engine's turn comes within the delay, and both it and a reset end with BUSY = 0. -/
theorem pendingCommandAlwaysCompletes : Obligations.PendingCommandAlwaysCompletes := by
  unfold Obligations.PendingCommandAlwaysCompletes
  refine ⟨exists_exec_completed, fun s t i n op rest hp hw hh hop hstep => ?event, fun s i hp hreset => ?completes,
    fun s i hp => ?clears⟩
  case event =>
    have he : engineTurn s = none := (engineTurn_eq_none_iff s).2 (.inr ⟨by omega, by simp [hh]⟩)
    rw [step_event he hh] at hstep
    obtain rfl : hostEvent op rest s = t := by simpa using hstep
    obtain ⟨⟨hpending, hdone, _, hresults, htable⟩, hwait, _⟩ :=
      hostEvent_busy (rest := rest) ((busy_eq_true_iff s).2 ⟨i, hp⟩) hop
    exact ⟨hpending.trans hp, by omega, hdone, hresults, htable⟩
  case completes =>
    obtain ⟨k, hk, u, hrun, ⟨hpending, hdone, hinputs, hresults, htable⟩, hend⟩ := run_to_turn_or_reset i _ s rfl hp
    have hturn : engineTurn u = some i := hend.resolve_right fun ⟨_, _, hmem⟩ => hreset hmem
    obtain ⟨t, hexec, hcompleted⟩ := exists_exec_completed i u
    have hstep : step u = exec i u := step_engine hturn
    exact ⟨k, hk, u, t, hrun, hpending.trans hp, hdone, hinputs, hresults, htable, hstep, hexec,
      (core_run_add hrun).trans (core_run_one (hstep.trans hexec)), hcompleted⟩
  case clears =>
    obtain ⟨k, hk, u, hrun, _, hturn | ⟨he, ⟨rest, hh⟩, _⟩⟩ := run_to_turn_or_reset i _ s rfl hp
    · obtain ⟨t, hexec, _, hidle, _⟩ := exists_exec_completed i u
      exact ⟨k + 1, by omega, t, (core_run_add hrun).trans (core_run_one ((step_engine hturn).trans hexec)), hidle⟩
    · exact ⟨k + 1, by omega, _, (core_run_add hrun).trans (core_run_one (step_reset he hh)), rfl⟩

end Sys2Proof.Machine
end

section
/-!
SUPPORT. The invariant of the device table, the result registers and the whole state, at reset and after every step
(spec/10_state.md R30 to R41); O45, O46 and O47.
-/

namespace Sys2Proof.Machine

/-! ### the device table -/

theorem Slot.ok_of_used {x : Slot} (h : x.used = true) :
    x.ok = (x.tracked && decide (1 ≤ x.ch.toNat) && decide (x.ch.toNat ≤ 16) && rangeOK x.last.toInt) :=
  if_pos h

theorem Slot.ok_setLast {x : Slot} {last : BitVec 16} (hused : x.used = true) (hok : x.ok = true)
    (hrange : rangeOK last.toInt = true) : ({ x with tracked := true, last := last } : Slot).ok = true := by
  have hnew : ({ x with tracked := true, last := last } : Slot).used = true := hused
  rw [Slot.ok_of_used hused] at hok
  simp only [Bool.and_eq_true] at hok
  rw [Slot.ok_of_used hnew]
  simp only [hok, hrange, Bool.and_self]

theorem freshSlot_ok {id : Byte} {ch : BitVec 5} {t : Int} (hchMin : 1 ≤ ch.toNat) (hchMax : ch.toNat ≤ 16)
    (hrange : rangeOK (BitVec.ofInt 16 t).toInt = true) : (freshSlot id ch t).ok = true := by
  refine (Slot.ok_of_used rfl).trans ?_
  simp only [freshSlot, hchMin, hchMax, hrange, decide_true, Bool.and_self]

/-- A table of the right size whose slots are all free, with TABLE_COUNT = 0, meets the invariants (R38, R41). -/
theorem tableInv_of_free {t : State} (hsize : t.slots.length = t.param.nDev) (hfree : ∀ k, t.slotAt k = Slot.free)
    (hcount : t.tableCount = 0#8) : TableInv t where
  size := hsize
  capacity := by simp [hcount]
  contiguous k _ := by simp [hfree, hcount, Slot.free]
  unique j k _ _ hj := by simp [hfree, Slot.free] at hj
  slotOk k _ := by rw [hfree]; decide

/-- The same slots are used, for the same keys; TRACKED and LAST may differ. -/
def SameKeys (s t : State) : Prop :=
  t.slots.length = s.slots.length ∧ ∀ j, (t.slotAt j).used = (s.slotAt j).used ∧ (t.slotAt j).id = (s.slotAt j).id ∧
    (t.slotAt j).ch = (s.slotAt j).ch

theorem sameKeys_of_slots_eq {s t : State} (h : t.slots = s.slots) : SameKeys s t :=
  ⟨by rw [h], fun j => by simp [slotAt_congr h j]⟩

/-- Writing TRACKED and LAST of a slot keeps the keys. -/
theorem sameKeys_setSlot {s : State} {k : Nat} (hk : k < s.slots.length) (tracked : Bool) (last : BitVec 16) :
    SameKeys s (setSlot k { s.slotAt k with tracked := tracked, last := last } s) :=
  ⟨by simp, slotAt_setSlot_key hk tracked last⟩

/-- A table with the same keys and good slots is as good as before. -/
theorem TableInv.of_sameKeys {s t : State} (h : TableInv s) (hparam : t.param = s.param)
    (hcount : t.tableCount = s.tableCount) (hsame : SameKeys s t)
    (hok : ∀ k < s.param.nDev, (t.slotAt k).ok = true) : TableInv t where
  size := by rw [hsame.1, hparam, h.size]
  capacity := by rw [hcount, hparam]; exact h.capacity
  contiguous k hk := by
    rw [(hsame.2 k).1, hcount]
    exact h.contiguous k (hparam ▸ hk)
  unique j k hj hk hju hku hid hch := by
    obtain ⟨hju', hjid, hjch⟩ := hsame.2 j
    obtain ⟨hku', hkid, hkch⟩ := hsame.2 k
    rw [hjid, hkid] at hid
    rw [hjch, hkch] at hch
    exact h.unique j k (hparam ▸ hj) (hparam ▸ hk) (hju' ▸ hju) (hku' ▸ hku) hid hch
  slotOk k hk := hok k (hparam ▸ hk)

theorem TableInv.congr {s t : State} (h : TableInv s) (hparam : t.param = s.param) (ht : TableKept s t) :
    TableInv t := by
  refine h.of_sameKeys hparam ht.2 (sameKeys_of_slots_eq ht.1) fun k hk => ?_
  rw [slotAt_congr ht.1]
  exact h.slotOk k hk

/-- Writing a legal temperature to LAST of a used slot keeps the invariants (R194, R195). -/
theorem TableInv.setLast {s : State} (h : TableInv s) {k : Nat} {last : BitVec 16} (hk : k < s.slots.length)
    (hused : (s.slotAt k).used = true) (hrange : rangeOK last.toInt = true) :
    TableInv (setSlot k { s.slotAt k with tracked := true, last := last } s) := by
  refine h.of_sameKeys (by rw [setSlot_param]) (by rw [setSlot_tableCount]) (sameKeys_setSlot hk true last)
    fun j hj => ?_
  by_cases hjk : j = k
  · subst hjk
    rw [slotAt_setSlot_self _ hk]
    exact Slot.ok_setLast hused (h.slotOk j hj) hrange
  · rw [slotAt_setSlot_ne _ hjk]
    exact h.slotOk j hj

theorem slotAt_inserted_self {s : State} {f : Nat} (x : Slot) (h : f < s.slots.length) :
    (inserted f x s).slotAt f = x :=
  slotAt_setSlot_self (s := s) x h

theorem slotAt_inserted_ne {s : State} {j f : Nat} (x : Slot) (h : j ≠ f) :
    (inserted f x s).slotAt j = s.slotAt j :=
  slotAt_setSlot_ne (s := s) x h

/-- Inserting an unseen key at the first free slot keeps the invariants: it is Slot[TABLE_COUNT], and no other slot
holds the key (R41, R196). -/
theorem TableInv.insert {s : State} (h : TableInv s) (hp : s.param.ok = true) {id : Byte} {ch : BitVec 5} {t : Int}
    {f : Nat} (hunseen : Unseen s id ch) (hf : firstFree s = some f)
    (hok : (freshSlot id ch t).ok = true) : TableInv (inserted f (freshSlot id ch t) s) := by
  have hfcount := h.eq_tableCount_of_firstFree hf
  obtain ⟨hlt, _, _⟩ := (firstFree_eq_some_iff s f).1 hf
  have hdev : s.slots.length = s.param.nDev := h.size
  have hself := slotAt_inserted_self (freshSlot id ch t) hlt
  have hother (j : Nat) (hj : j ≠ f) := slotAt_inserted_ne (s := s) (freshSlot id ch t) hj
  have hcount : (inserted f (freshSlot id ch t) s).tableCount.toNat = f + 1 := by
    obtain ⟨⟨_, hle⟩, _⟩ := (Params.ok_iff _).1 hp
    rw [hfcount]
    show (s.tableCount + 1#8).toNat = s.tableCount.toNat + 1
    rw [BitVec.toNat_add, BitVec.toNat_ofNat]
    omega
  have hnew (k : Nat) (hk : k < s.param.nDev) (hkf : k ≠ f) (hused : (s.slotAt k).used = true)
      (hid : (s.slotAt k).id = id) (hch : (s.slotAt k).ch = ch) : False :=
    hunseen k (hdev ▸ hk) ⟨hused, hid, hch⟩
  refine ⟨by simpa [inserted] using hdev, ?capacity, fun k hk => ?contiguous, fun j k hj hk hju hku hid hch => ?unique,
    fun k hk => ?slotOk⟩
  case capacity =>
    rw [hcount]
    show f + 1 ≤ s.param.nDev
    omega
  case contiguous =>
    rw [hcount]
    by_cases hkf : k = f
    · rw [hkf, hself]
      simp [freshSlot]
    · rw [hother k hkf, h.contiguous k hk, ← hfcount]
      omega
  case unique =>
    by_cases hjf : j = f <;> by_cases hkf : k = f
    · rw [hjf, hkf]
    · rw [hjf, hself, hother k hkf] at hid hch
      rw [hother k hkf] at hku
      exact (hnew k hk hkf hku hid.symm hch.symm).elim
    · rw [hkf, hself, hother j hjf] at hid hch
      rw [hother j hjf] at hju
      exact (hnew j hj hjf hju hid hch).elim
    · rw [hother j hjf, hother k hkf] at hid hch
      rw [hother j hjf] at hju
      rw [hother k hkf] at hku
      exact h.unique j k hj hk hju hku hid hch
  case slotOk =>
    by_cases hkf : k = f
    · rw [hkf, hself]
      exact hok
    · rw [hother k hkf]
      exact h.slotOk k hk

/-- A DECODE keeps the table's invariants: the filter stores only what the validator has bounded (R41, R99). -/
theorem tableInv_decodeEffect {s : State} (h : TableInv s) (hp : s.param.ok = true) : TableInv (decodeEffect s) := by
  by_cases haccepted : (decodeEffect s).result0.outcome = .accepted
  case neg => exact h.congr (decodeEffect_param s) (decodeEffect_tableKept haccepted)
  case pos =>
    obtain ⟨r, x, u, hx, hf, he⟩ := decodeEffect_accepted haccepted
    obtain ⟨hmin, hmax, hfits, hchMin, hchMax⟩ := validate_ok_bounds hx.2
    have hrange : rangeOK (BitVec.ofInt 16 x.t).toInt = true := by
      rw [hfits]
      exact (rangeOK_iff _).2 ⟨hmin, hmax⟩
    have hkept : TableKept u (decodeEffect s) := by rw [he]; exact ⟨rfl, rfl⟩
    have hu : TableInv u ∧ u.param = s.param := by
      rcases filter_accept_cases hf with ⟨k, ⟨hlt, hused, _⟩, _, rfl⟩ | ⟨f, hunseen, hfree, rfl⟩
      · exact ⟨h.setLast hlt hused hrange, rfl⟩
      · exact ⟨h.insert hp hunseen hfree (freshSlot_ok hchMin hchMax hrange), rfl⟩
    exact hu.1.congr ((decodeEffect_param s).trans hu.2.symm) hkept

theorem tableInv_freeTable {s : State} (h : TableInv s) : TableInv (freeTable s) :=
  tableInv_of_free (by simpa using h.size) (slotAt_freeTable s) rfl

/-! ### the result registers -/

theorem ResultInv.congr {s t : State} (h : ResultInv s) (hparam : t.param = s.param) (ht : ResultsKept s t) :
    ResultInv t := by
  obtain ⟨h0, h1, hf0, hf1, hf2, hf3⟩ := ht
  obtain ⟨hreason, hnoReading, hreading, hrowSel, hnoFrame, hhigh⟩ := h
  constructor <;> simpa only [h0, h1, hf0, hf1, hf2, hf3, hparam]

/-- FRAME3 has no bytes past the Frame's fourteen (R36). -/
theorem frameWord_three_high {F : Frame} (h : F.length = 14) : (frameWord F 3).extractLsb' 16 16 = 0#16 := by
  have hbyte (n : Nat) (hn : 14 ≤ n) : F.byte n = 0#8 := by
    simp [Frame.byte, List.getD_eq_getElem?_getD, h, hn]
  rw [frameWord, BitVec.extractLsb'_append_eq_of_le (by omega), BitVec.extractLsb'_append_eq_of_le (by omega),
    hbyte _ (by omega), hbyte _ (by omega)]
  decide

/-- ROW_SEL shows a row index below N_ROWS (R34). -/
theorem toNat_ofNat_lt {r n : Nat} (h : r < n) : (BitVec.ofNat 6 r).toNat < n := by
  rw [BitVec.toNat_ofNat]
  exact (Nat.mod_le _ _).trans_lt h

theorem Reason.ne_none_of_rejectClass {reason : Reason} {cls : OutcomeClass}
    (h : reason.rejectClass = some cls) : cls ≠ .none := by
  rintro rfl
  cases reason <;> cases h

/-- The results of a rejection are coherent (R226). -/
theorem resultInv_reject (s : State) {cls : OutcomeClass} {reason : Reason} {r : Nat} {F : Frame}
    (hclass : reason.rejectClass = some cls) (hrow : reason = .noRow ∨ r < s.param.nRows)
    (hrows : 1 ≤ s.param.nRows) (hF : cls = .noCandidate ∨ F.length = 14) :
    ResultInv (finish cls reason r F none s) := by
  have hnone := Reason.ne_none_of_rejectClass hclass
  have haccepted := Reason.ne_accepted_of_rejectClass hclass
  refine ⟨?reason, fun _ => ⟨rfl, rfl, rfl⟩, fun h => absurd h haccepted, ⟨?rowSel, ?noRow⟩, fun h => ?noFrame, ?high⟩
  case reason => simpa [hnone, haccepted] using hclass
  case rowSel =>
    rw [finish_result0_reject, finish_param]
    by_cases h : reason = .noRow
    · rw [if_pos h]; exact hrows
    · rw [if_neg h]; exact toNat_ofNat_lt (hrow.resolve_left h)
  case noRow =>
    rintro (h | h)
    · exact if_pos h
    · exact absurd h hnone
  case noFrame =>
    have hcls : cls = .noCandidate := h.resolve_left hnone
    simp [hcls]
  case high =>
    rw [finish_frame3]
    by_cases h : cls = .noCandidate
    · rw [if_pos h]; rfl
    · rw [if_neg h]; exact frameWord_three_high (hF.resolve_left h)

/-- The results of an acceptance are coherent (R226). -/
theorem resultInv_accept (s : State) {r : Nat} {F : Frame} {x : Fields} (hrow : r < s.param.nRows)
    (hF : F.length = 14) (hch : 1 ≤ x.ch.toNat ∧ x.ch.toNat ≤ 16)
    (hrange : rangeOK (BitVec.ofInt 16 x.t).toInt = true) : ResultInv (finish .accepted .none r F (some x) s) where
  reason := rfl
  noReading h := absurd rfl h
  reading _ := ⟨hch.1, hch.2, hrange⟩
  rowSel := ⟨toNat_ofNat_lt hrow, nofun⟩
  noFrame := nofun
  frame3High := frameWord_three_high hF

/-- Whatever its outcome, DECODE leaves coherent results (R226). -/
theorem resultInv_decodeEffect {s : State} (hp : s.param.ok = true) (hn : s.nrows.toNat ≤ s.param.nRows) :
    ResultInv (decodeEffect s) := by
  obtain ⟨_, hrows, _⟩ := (Params.ok_iff _).1 hp
  have hlocate (r : Nat) (hl : locate s = some r) : r < s.param.nRows := (locate_some_spec hl).1.trans_le hn
  rcases decodeEffect_reject_or_accept s with ⟨cls, reason, r, F, hclass, _, hrow, hF, he⟩ | ⟨r, x, u, hx, hf, he⟩
  · rw [he]
    exact resultInv_reject s hclass (hrow.imp_right (hlocate r)) hrows
      (hF.imp_right fun h => by rw [h, lineDecode_length])
  · obtain ⟨hmin, hmax, hfits, hch⟩ := validate_ok_bounds hx.2
    have hparam : u.param = s.param := by
      rw [← decodeEffect_param s, he, finish_param]
    rw [he]
    exact resultInv_accept u (hparam ▸ hlocate r hx.1.1) (lineDecode_length _) hch
      (by rw [hfits]; exact (rangeOK_iff _).2 ⟨hmin, hmax⟩)

/-! ### the whole state -/

/-- The reset input leaves a good state (R280). -/
theorem inv_resetBlock {s : State} (hp : s.param.ok = true) : Inv (resetBlock s) where
  params := hp
  rowMemory := resetBlock_wf s
  nrows := Nat.zero_le _
  busyNotDone := nofun
  table := tableInv_of_free (by simp) (slotAt_of_slots_replicate (resetBlock_slots s)) rfl
  result := by
    obtain ⟨_, hrows, _⟩ := (Params.ok_iff _).1 hp
    exact ⟨rfl, fun _ => ⟨rfl, rfl, rfl⟩, nofun, ⟨hrows, fun _ => rfl⟩, fun _ => ⟨rfl, rfl, rfl, rfl⟩,
      by rw [resetBlock_frame3]; decide⟩

theorem inv_resetOf {p : Params} (k : Nat) (hp : p.ok = true) : Inv (State.resetOf p k) :=
  inv_resetBlock (s := { State.resetOf p k with draws := k }) hp

/-- The open parameters lie in their ranges (R8). -/
theorem Params.ofConfig_ok : Params.ofConfig.ok = true := by
  rw [Params.ok_iff]
  exact ⟨⟨Nat.succ_pos _, Config.nDevLessOne.isLt⟩, Nat.succ_pos _, Config.nRowsLessOne.isLt⟩

/-- Settles O45: power-on is the reset with the open parameters, which are legal. -/
theorem invAtReset : Obligations.InvAtReset := by
  unfold Obligations.InvAtReset
  exact ⟨inv_resetOf 0 Params.ofConfig_ok, fun p k hp => inv_resetOf k hp⟩

theorem WriteEffect.rows_wf {addr : Offset} {n : Size} {v : Word} {s t : State} (h : WriteEffect addr n v s t)
    (hwf : RowMemory.wf s.param.nRows s.rows = true) : RowMemory.wf s.param.nRows t.rows = true := by
  cases h
  case rowLen r _ _ _ => exact writeRowLen_wf r v hwf
  case rowData r w _ _ _ => exact writeRowData_wf r w v hwf
  all_goals exact hwf

/-- A write that leaves a command pending leaves DONE = 0: an issue clears it, and a STATUS write meets BUSY = 0. -/
theorem WriteEffect.busyNotDone {addr : Offset} {n : Size} {v : Word} {s t : State} (h : WriteEffect addr n v s t)
    (hs : s.busy = true → s.done = false) : t.busy = true → t.done = false := by
  cases h
  case issued => exact fun _ => rfl
  case status _ _ hb => exact fun ht => absurd ht (by simp [hb])
  all_goals exact hs

/-- Settles O46: each part of the invariant, over the steps that touch what it speaks of. -/
theorem everyStepKeepsInv : Obligations.EveryStepKeepsInv := by
  unfold Obligations.EveryStepKeepsInv
  intro s t hs hstep
  have heffect := step_effect hstep
  have hparam : t.param = s.param := heffect.param_eq
  have hrows : RowMemory.wf t.param.nRows t.rows = true := by
    rw [hparam]
    cases heffect
    case decode => rw [complete_rows, decodeEffect_rows]; exact hs.rowMemory
    case write rest _ _ hw => exact hw.rows_wf (s := passEvent rest s) hs.rowMemory
    case reset rest _ _ => exact resetBlock_wf (passEvent rest s)
    all_goals exact hs.rowMemory
  have hbusy : t.busy = true → t.done = false := by
    cases heffect
    case nop | decode | clearTable | reset => nofun
    case write rest _ _ hw => exact hw.busyNotDone (s := passEvent rest s) hs.busyNotDone
    all_goals exact hs.busyNotDone
  have htables : TableInv t ∧ ResultInv t := by
    rcases heffect.results_table_cases with ⟨hresults, htable⟩ | ⟨_, rfl⟩ | ⟨_, rfl⟩ | ⟨_, rest, _, rfl⟩
    · exact ⟨hs.table.congr hparam htable, hs.result.congr hparam hresults⟩
    · exact ⟨(tableInv_decodeEffect hs.table hs.params).congr rfl ⟨rfl, rfl⟩,
        (resultInv_decodeEffect hs.params hs.nrows).congr rfl ⟨rfl, rfl, rfl, rfl, rfl, rfl⟩⟩
    · exact ⟨(tableInv_freeTable hs.table).congr rfl ⟨rfl, rfl⟩, hs.result.congr rfl ⟨rfl, rfl, rfl, rfl, rfl, rfl⟩⟩
    · have hreset := inv_resetBlock (s := passEvent rest s) hs.params
      exact ⟨hreset.table, hreset.result⟩
  exact ⟨hparam ▸ hs.params, hrows, step_nrows_le hstep hs.nrows, hbusy, htables.1, htables.2⟩

/-! ### runs -/

/-- A run from a good state ends in one. -/
theorem inv_run {k : Nat} {s t : State} (hs : Inv s) (h : Sys2Proof.core.run k s = .next t) : Inv t := by
  induction k generalizing s with
  | zero =>
    obtain rfl : s = t := Host.Outcome.next.inj h
    exact hs
  | succ k ih =>
    obtain ⟨u, hu⟩ := exists_step s
    exact ih (everyStepKeepsInv s u hs hu) ((core_run_succ hu).symm.trans h)

/-- A list whose elements with the property are exactly its first `n` has `n` of them. -/
theorem countP_eq_of_prefix {α : Type} {p : α → Bool} {l : List α} {n : Nat} (hn : n ≤ l.length)
    (h : ∀ k (hk : k < l.length), p l[k] = true ↔ k < n) : l.countP p = n := by
  have hfirst : (l.take n).countP p = n := by
    rw [List.countP_eq_length.2, List.length_take, Nat.min_eq_left hn]
    intro a ha
    obtain ⟨k, hk, rfl⟩ := List.mem_take_iff_getElem.1 ha
    exact (h k (by omega)).2 (by omega)
  have hrest : (l.drop n).countP p = 0 := by
    rw [List.countP_eq_zero]
    intro a ha
    obtain ⟨k, hk, rfl⟩ := List.mem_drop_iff_getElem.1 ha
    rw [h]
    omega
  rw [← List.take_append_drop n l, List.countP_append, hfirst, hrest, Nat.add_zero]

/-- Settles O47: by contiguity the used slots are the first TABLE_COUNT ones, and a good used slot is tracked. -/
theorem tableCountCountsUsedSlots : Obligations.TableCountCountsUsedSlots := by
  unfold Obligations.TableCountCountsUsedSlots
  intro k s t hs hrun
  have htable := (inv_run hs hrun).table
  refine ⟨(countP_eq_of_prefix (htable.size ▸ htable.capacity) fun j hj => ?_).symm, fun x hx hused => ?_⟩
  · rw [← slotAt_of_lt hj]
    exact htable.used_iff hj
  · obtain ⟨j, hj, rfl⟩ := List.getElem_of_mem hx
    have hok := htable.slotOk j (htable.size ▸ hj)
    rw [slotAt_of_lt hj, Slot.ok_of_used hused] at hok
    simp only [Bool.and_eq_true, and_assoc] at hok
    exact hok.1

end Sys2Proof.Machine
end

section
/-!
SUPPORT. What DECODE reads: the raw bits to 223, the Frame bits of R96, the table alone in the filter
(spec/40_line_decoder.md R133, spec/41_frame_validator.md R156, spec/43_device_filter.md R201); O18, O22 and O30.
-/

namespace Sys2Proof.Machine

/-! ### the filter reads the table alone -/

theorem lookup_congr {s u : State} (h : u.slots = s.slots) (id : Byte) (ch : BitVec 5) :
    lookup u id ch = lookup s id ch := by
  simp only [lookup, h]

theorem firstFree_congr {s u : State} (h : u.slots = s.slots) : firstFree u = firstFree s := by
  simp only [firstFree, h]

/-- Over the same table the filter gives the same answer and the same table, whatever else the state holds (R191). -/
theorem filter_congr {s u : State} (hslots : u.slots = s.slots) (hcount : u.tableCount = s.tableCount) (id : Byte)
    (ch : BitVec 5) (t : Int) : filter id ch t u = ((filter id ch t s).1,
      { u with slots := (filter id ch t s).2.slots, tableCount := (filter id ch t s).2.tableCount }) := by
  have hself : { u with slots := s.slots, tableCount := s.tableCount } = u := by rw [← hslots, ← hcount]
  unfold filter
  rw [lookup_congr hslots]
  cases lookup s id ch with
  | some k =>
    simp only [filterFound, slotAt_congr hslots]
    split_ifs
    · simp only [hself]
    all_goals simp only [setSlot, hslots, hcount]
  | none =>
    simp only [filterUnseen, firstFree_congr hslots]
    cases firstFree s with
    | some f => simp only [setSlot, hslots, hcount]
    | none => simp only [hself]

/-! ### DECODE of given raw bits -/

theorem decodeFrame_rows (r : Nat) (F : Frame) (s : State) (m : RowMemory) :
    decodeFrame r F { s with rows := m } = { decodeFrame r F s with rows := m } := by
  unfold decodeFrame
  cases validate F with
  | error reason => rfl
  | ok x =>
    have hframe := filter_frame s x.id x.ch x.t
    simp only [filter_congr (s := s) (u := { s with rows := m }) rfl rfl x.id x.ch x.t]
    cases hf : filter x.id x.ch x.t s with
    | mk answer u =>
      simp only [hf] at hframe
      cases answer <;> rw [hframe] <;> rfl

theorem decodeRow_rows (r : Nat) (row : Row) (s : State) (m : RowMemory) :
    decodeRow r row { s with rows := m } = { decodeRow r row s with rows := m } := by
  unfold decodeRow
  split_ifs
  · rfl
  · rfl
  · exact decodeFrame_rows r _ s m

/-- The pre-checks read raw bytes below 28, and the line decoder raw bits below 224 (R122, R123, R133). -/
theorem decodeRow_congr {row row' : Row} (h : ∀ k < 224, rowBit row' k = rowBit row k) (r : Nat) (s : State) :
    decodeRow r row' s = decodeRow r row s := by
  have hbyte (j : Nat) (hj : j < 28) : rowByte row' j = rowByte row j := rowByte_congr 224 j (by omega) h
  have hpreamble : preambleOK row' = preambleOK row := by
    rw [Bool.eq_iff_iff, preambleOK_iff, preambleOK_iff, hbyte 0 (by omega), hbyte 1 (by omega), hbyte 2 (by omega)]
  have hsentinel : sentinelOK row' = sentinelOK row := by
    rw [Bool.eq_iff_iff, sentinelOK_iff, sentinelOK_iff, hbyte 27 (by omega)]
  rw [decodeRow, decodeRow, hpreamble, hsentinel, lineDecode_congr h]

/-- Settles O18: the locator reads the lengths, and the rest of DECODE the raw bits below 224 of one row. -/
theorem rawBitsFrom224AreNeverRead : Obligations.RawBitsFrom224AreNeverRead := by
  unfold Obligations.RawBitsFrom224AreNeverRead
  intro s m hlen hbits
  have heffect : decodeEffect { s with rows := m } = { decodeEffect s with rows := m } := by
    unfold decodeEffect
    rw [locate_congr_len (s := s) (u := { s with rows := m }) rfl hlen]
    cases locate s with
    | none => rfl
    | some r => exact (decodeRow_rows r _ s m).trans (by rw [decodeRow_congr (hbits r)])
  exact ⟨_, exec_decode s, by rw [exec_decode, heffect]; rfl⟩

/-! ### DECODE of given Frame bits -/

/-- The validator and the extractor read no Frame bits but those of R96. -/
theorem validate_congr {F G : Frame} (h5 : F.hi 5 = G.hi 5) (h6 : F.byte 6 = G.byte 6) (h7 : F.hi 7 = G.hi 7)
    (h8 : F.byte 8 = G.byte 8) (h9 : (F.byte 9).getLsbD 3 = (G.byte 9).getLsbD 3) (h13 : F.byte 13 = G.byte 13) :
    validate G = validate F := by
  have hhi8 : F.hi 8 = G.hi 8 := by rw [Frame.hi, Frame.hi, h8]
  have hlo8 : F.lo 8 = G.lo 8 := by rw [Frame.lo, Frame.lo, h8]
  have hmag : magnitudeOf F = magnitudeOf G := by simp only [magnitudeOf, tensOf, onesOf, decOf, h7, hhi8, hlo8]
  have hneg : negOf F = negOf G := h9
  have hfields : extract G = extract F := by
    rw [extract, extract, channelOf, channelOf, deviceIdOf, deviceIdOf, tempOf, tempOf, h5, h6, hneg, hmag]
  have htrailer : trailerOK G = trailerOK F := by rw [trailerOK, trailerOK, h13]
  have hbcd : bcdOK G = bcdOK F := by
    rw [Bool.eq_iff_iff, bcdOK_iff, bcdOK_iff, h7, hhi8, hlo8]
  rw [validate, validate, hfields, htrailer, hbcd, channelOK_true, channelOK_true]

/-- Past the validator the Frame itself only goes to FRAME0..3 (R226). -/
theorem decodeFrame_of_validate_eq {F G : Frame} (h : validate G = validate F) (r : Nat) (s : State) :
    decodeFrame r G s = { decodeFrame r F s with frame0 := frameWord G 0, frame1 := frameWord G 1,
                                                 frame2 := frameWord G 2, frame3 := frameWord G 3 } := by
  unfold decodeFrame
  rw [h]
  cases validate F with
  | error reason => rfl
  | ok x =>
    simp only
    cases filter x.id x.ch x.t s with
    | mk answer u => cases answer <;> rfl

theorem decodeFrame_frame0 (r : Nat) (F : Frame) (s : State) : (decodeFrame r F s).frame0 = frameWord F 0 :=
  congrArg State.frame0 (decodeFrame_of_validate_eq (F := F) rfl r s)

/-- Settles O22: the two Frames are one to the validator, so that only FRAME0..3 and row memory differ. -/
theorem unreadFrameBitsDoNotMatter : Obligations.UnreadFrameBitsDoNotMatter := by
  unfold Obligations.UnreadFrameBitsDoNotMatter
  rintro s m r F G hF hG rfl rfl h5 h6 h7 h8 h9 h13
  refine ⟨_, _, exec_decode s, exec_decode _, ?_⟩
  rw [decodeEffect_line hF, decodeEffect_line hG, decodeFrame_rows,
    decodeFrame_of_validate_eq (validate_congr h5 h6 h7 h8 h9 h13)]
  exact ⟨rfl, rfl, ⟨rfl, rfl⟩, decodeFrame_frame0 r _ s, rfl⟩

/-! ### a DECODE that ends before the filter -/

/-- Over another table the ways that end before the filter are the same (R201). -/
theorem decodeEffect_of_other_table {s : State} (slots : List Slot) (count : BitVec 8)
    (hnone : (decodeEffect s).result0.reason ≠ .none) (hdelta : (decodeEffect s).result0.reason ≠ .delta)
    (hfull : (decodeEffect s).result0.reason ≠ .tableFull) :
    decodeEffect { s with slots := slots, tableCount := count } =
      { decodeEffect s with slots := slots, tableCount := count } := by
  have hlocate : locate { s with slots := slots, tableCount := count } = locate s := locate_congr_rows rfl rfl
  rcases decodeEffect_cases s with ⟨hl, h⟩ | ⟨r, hl, hp, h⟩ | ⟨r, hl, hp, hs, h⟩ | ⟨r, reason, hr, hv, _, h⟩ |
    ⟨r, x, reason, _, _, hreason, h⟩ | ⟨r, x, u, _, _, h⟩
  · rw [h, decodeEffect_noRow (hlocate.trans hl)]
    rfl
  · rw [h, decodeEffect_preamble (hlocate.trans hl) hp]
    rfl
  · rw [h, decodeEffect_sentinel (hlocate.trans hl) hp hs]
    rfl
  · rw [h, decodeEffect_invalid (s := { s with slots := slots, tableCount := count }) (hr.congr rfl rfl) hv]
    rfl
  · rw [h, finish_result0_reject] at hdelta hfull
    rcases hreason with rfl | rfl
    · exact absurd rfl hdelta
    · exact absurd rfl hfull
  · rw [h, finish_result0_accept] at hnone
    exact absurd rfl hnone

/-- Settles O30: such a DECODE has not come to the filter, the only reader and writer of the table. -/
theorem earlierRejectionIgnoresTheTable : Obligations.EarlierRejectionIgnoresTheTable := by
  unfold Obligations.EarlierRejectionIgnoresTheTable
  intro s t slots count hexec hnone hdelta hfull
  obtain rfl : complete (decodeEffect s) = t := by simpa using hexec
  refine ⟨decodeEffect_tableKept fun haccepted => ?_, ?_⟩
  · obtain ⟨r, x, u, _, _, h⟩ := decodeEffect_accepted haccepted
    rw [complete_result0, h] at hnone
    exact hnone rfl
  · rw [exec_decode, decodeEffect_of_other_table slots count hnone hdelta hfull]
    rfl

end Sys2Proof.Machine
end

section
/-!
SUPPORT. The filter over a table with the same keys: with another key's LAST replaced, and just after it has run
(spec/43_device_filter.md R199, spec/44_commands.md R230); O28 and O31.
-/

namespace Sys2Proof.Machine

/-! ### tables with the same keys -/

theorem SameKeys.firstHolder_iff {s u : State} (h : SameKeys s u) (id : Byte) (ch : BitVec 5) (k : Nat) :
    FirstHolder u id ch k ↔ FirstHolder s id ch k := by
  simp only [FirstHolder, h.1, h.2]

theorem SameKeys.unseen_iff {s u : State} (h : SameKeys s u) (id : Byte) (ch : BitVec 5) :
    Unseen u id ch ↔ Unseen s id ch := by
  simp only [Unseen, h.1, h.2]

theorem SameKeys.firstFree_eq {s u : State} (h : SameKeys s u) : firstFree u = firstFree s := by
  cases hf : firstFree s with
  | some f =>
    rw [firstFree_eq_some_iff] at hf ⊢
    simpa only [h.1, h.2] using hf
  | none =>
    rw [firstFree_eq_none_iff] at hf ⊢
    simpa only [h.1, h.2] using hf

theorem setSlot_comm {j k : Nat} (h : j ≠ k) (x y : Slot) (s : State) :
    setSlot j x (setSlot k y s) = setSlot k y (setSlot j x s) := by
  rw [setSlot, setSlot_slots, List.set_comm _ _ h.symm]
  rfl

/-! ### another key's slot -/

/-- A used slot that holds another key is neither the key's slot nor a free one (R191). -/
theorem filterSlot_ne_of_other_key {s : State} {id : Byte} {ch : BitVec 5} {k : Nat} (hused : (s.slotAt k).used = true)
    (hother : (s.slotAt k).id ≠ id ∨ (s.slotAt k).ch ≠ ch) : filterSlot s id ch ≠ some k := by
  intro hslot
  cases hl : lookup s id ch with
  | some j =>
    have hj := (lookup_eq_some_iff s id ch j).1 hl
    rw [filterSlot_of_holder hj] at hslot
    obtain rfl := Option.some.inj hslot
    obtain ⟨_, _, hid, hch, _⟩ := hj
    exact hother.elim (fun h => h hid) fun h => h hch
  | none =>
    rw [filterSlot_of_unseen ((lookup_eq_none_iff s id ch).1 hl)] at hslot
    obtain ⟨_, hfree, _⟩ := (firstFree_eq_some_iff s k).1 hslot
    simp [hused] at hfree

/-- Replacing LAST of a used slot with another key changes neither the filter's answer nor what it writes (R199). -/
theorem filter_setLast_other {s : State} {id : Byte} {ch : BitVec 5} {k : Nat} (t : Int) (L : BitVec 16)
    (hused : (s.slotAt k).used = true) (hother : (s.slotAt k).id ≠ id ∨ (s.slotAt k).ch ≠ ch) :
    filter id ch t (setSlot k { s.slotAt k with last := L } s) =
      ((filter id ch t s).1, setSlot k { s.slotAt k with last := L } (filter id ch t s).2) := by
  have hsame : SameKeys s (setSlot k { s.slotAt k with last := L } s) :=
    sameKeys_setSlot (lt_of_slotAt_used hused) (s.slotAt k).tracked L
  have hne := filterSlot_ne_of_other_key hused hother
  have hnotHolder (j : Nat) (hj : FirstHolder s id ch j) : j ≠ k := fun h =>
    hne (h ▸ filterSlot_of_holder hj)
  have hslot (j : Nat) (hj : j ≠ k) := slotAt_setSlot_ne (s := s) { s.slotAt k with last := L } hj
  rcases filter_cases s id ch t with ⟨j, hj, htracked, hdelta, h⟩ | ⟨j, hj, htracked, hdelta, h⟩ |
    ⟨j, hj, htracked, h⟩ | ⟨f, hunseen, hfree, h⟩ | ⟨hunseen, hfull, h⟩ <;> rw [h]
  · have hjk := hnotHolder j hj
    exact filter_delta ((hsame.firstHolder_iff id ch j).2 hj) (by rw [hslot j hjk, htracked]) (by rwa [hslot j hjk])
  · have hjk := hnotHolder j hj
    rw [filter_update ((hsame.firstHolder_iff id ch j).2 hj) (by rw [hslot j hjk, htracked]) (by rwa [hslot j hjk]),
      hslot j hjk, setSlot_comm hjk]
  · have hjk := hnotHolder j hj
    rw [filter_track ((hsame.firstHolder_iff id ch j).2 hj) (by rw [hslot j hjk, htracked]), hslot j hjk,
      setSlot_comm hjk]
  · have hfk : f ≠ k := fun h => hne (h ▸ (filterSlot_of_unseen hunseen).trans hfree)
    rw [filter_insert ((hsame.unseen_iff id ch).2 hunseen) (hsame.firstFree_eq.trans hfree), inserted,
      setSlot_comm hfk]
    rfl
  · exact filter_full ((hsame.unseen_iff id ch).2 hunseen) (hsame.firstFree_eq.trans hfull)

/-- Settles O28: both DECODEs reach the filter with the same fields, and the filter passes the other slot by. -/
theorem keysAreIndependent : Obligations.KeysAreIndependent := by
  unfold Obligations.KeysAreIndependent
  intro s r k x L hx hused hother
  have hslot : (decodeEffect s).slotAt k = s.slotAt k := by
    rw [slotAt_congr hx.tableKept.1]
    exact (filter_other_slots s x.id x.ch x.t).2 k (filterSlot_ne_of_other_key hused hother)
  have hfilter := filter_setLast_other x.t L hused hother
  have hx' : ReachesFilter (setSlot k { s.slotAt k with last := L } s) r x := hx.congr rfl rfl
  refine ⟨_, exec_decode s, hslot, ?_⟩
  rw [exec_decode]
  cases hf : filter x.id x.ch x.t s with
  | mk answer u =>
    rw [hf] at hfilter
    cases answer with
    | some reason => rw [decodeEffect_reject hx hf, decodeEffect_reject hx' hfilter]; rfl
    | none => rw [decodeEffect_accept hx hf, decodeEffect_accept hx' hfilter]; rfl

/-! ### the same key again -/

/-- A tracked key whose LAST is t already is accepted at t, and nothing changes (R194). -/
theorem filter_at_last {u : State} {id : Byte} {ch : BitVec 5} {t : Int} {k : Nat} (hk : FirstHolder u id ch k)
    (htracked : (u.slotAt k).tracked = true) (hlast : (u.slotAt k).last = BitVec.ofInt 16 t)
    (hfits : (BitVec.ofInt 16 t).toInt = t) : filter id ch t u = (none, u) := by
  have hdelta : (t - (u.slotAt k).last.toInt).natAbs ≤ 120 := by
    rw [hlast, hfits]
    omega
  have hself : setSlot k { u.slotAt k with last := BitVec.ofInt 16 t } u = u := by
    rw [← hlast, setSlot, slots_set_slotAt]
  rw [filter_update hk htracked hdelta, hself]

/-- Over the table that an acceptance leaves, the filter accepts again and changes nothing (R230). -/
theorem filter_after_accept {s u : State} {id : Byte} {ch : BitVec 5} {t : Int} (h : filter id ch t s = (none, u))
    (hfits : (BitVec.ofInt 16 t).toInt = t) : filter id ch t u = (none, u) := by
  rcases filter_accept_cases h with ⟨k, hk, _, rfl⟩ | ⟨f, hunseen, hfree, rfl⟩
  · have hself := slotAt_setSlot_self { s.slotAt k with tracked := true, last := BitVec.ofInt 16 t } hk.1
    exact filter_at_last (((sameKeys_setSlot hk.1 true _).firstHolder_iff id ch k).2 hk) (by rw [hself])
      (by rw [hself]) hfits
  · obtain ⟨hlt, _, _⟩ := (firstFree_eq_some_iff s f).1 hfree
    have hself := slotAt_inserted_self (freshSlot id ch t) hlt
    have hbefore (j : Nat) (hj : j < f) := slotAt_inserted_ne (s := s) (freshSlot id ch t) (Nat.ne_of_lt hj)
    have hholder : FirstHolder (inserted f (freshSlot id ch t) s) id ch f := by
      refine ⟨by simpa [inserted] using hlt, by rw [hself]; rfl, by rw [hself]; rfl, by rw [hself]; rfl,
        fun j hj => ?_⟩
      rw [hbefore j hj]
      exact hunseen j (hj.trans hlt)
    exact filter_at_last hholder (by rw [hself]; rfl) (by rw [hself]; rfl) hfits

/-- Over the rows of an accepted DECODE and the table it left, DECODE writes the same results only (R230). -/
theorem decodeEffect_after_accept {s u v : State} {r : Nat} {x : Fields} (hx : ReachesFilter s r x)
    (hf : filter x.id x.ch x.t s = (none, u)) (hnrows : v.nrows = s.nrows) (hrows : v.rows = s.rows)
    (hslots : v.slots = u.slots) (hcount : v.tableCount = u.tableCount) :
    decodeEffect v = finish .accepted .none r (lineDecode (s.rowAt r)) (some x) v := by
  have hfv : filter x.id x.ch x.t v = (none, v) := by
    rw [filter_congr hslots hcount, filter_after_accept hf hx.toInt_ofInt]
    simp only [← hslots, ← hcount]
  rw [decodeEffect_accept (hx.congr hnrows hrows) hfv, rowAt_congr hrows]

/-- Settles O31: after an acceptance LAST of the key is t, so that the filter accepts with delta 0. -/
theorem acceptedDecodeIsIdempotent : Obligations.AcceptedDecodeIsIdempotent := by
  unfold Obligations.AcceptedDecodeIsIdempotent
  intro s t hexec haccepted
  obtain rfl : complete (decodeEffect s) = t := by simpa using hexec
  obtain ⟨r, x, u, hx, hf, he⟩ := decodeEffect_accepted haccepted
  have hagain (v : State) (hrows : v.rows = (decodeEffect s).rows) (hnrows : v.nrows = (decodeEffect s).nrows)
      (hslots : v.slots = (decodeEffect s).slots) (hcount : v.tableCount = (decodeEffect s).tableCount) :
      decodeEffect v = finish .accepted .none r (lineDecode (s.rowAt r)) (some x) v := by
    rw [he] at hslots hcount
    exact decodeEffect_after_accept hx hf (hnrows.trans (decodeEffect_nrows s)) (hrows.trans (decodeEffect_rows s))
      hslots hcount
  refine ⟨?same, fun v hrows hnrows hslots hcount => ⟨_, exec_decode v, ?_⟩⟩
  case same =>
    rw [exec_decode, hagain (complete (decodeEffect s)) rfl rfl rfl rfl, he]
    rfl
  · rw [hagain v hrows hnrows hslots hcount]
    refine ⟨?_, hslots, hcount⟩
    rw [he]
    exact ⟨rfl, rfl, rfl, rfl, rfl, rfl⟩

end Sys2Proof.Machine
end

section
/-!
SUPPORT. The address map area by area, and the platform window (spec/20_memory.md R60, R77); O32 and O50.
-/

namespace Sys2Proof.Machine

/-! ### the slot area and the row area -/

theorem slotRegAt_key (k : Nat) : slotRegAt (8 * k) = some (.slotKey k) := by
  rw [slotRegAt, if_pos (by omega), show 8 * k / 8 = k by omega]

theorem slotRegAt_temp (k : Nat) : slotRegAt (4 + 8 * k) = some (.slotTemp k) := by
  rw [slotRegAt, if_neg (by omega), if_pos (by omega), show (4 + 8 * k) / 8 = k by omega]

theorem rowRegAt_len (r : Nat) : rowRegAt (0x40 * r) = some (.rowLen r) := by
  rw [rowRegAt, if_pos (by omega), show 0x40 * r / 0x40 = r by omega]

theorem rowRegAt_data (r : Nat) {w : Nat} (hw : w < 8) : rowRegAt (0x20 + 0x40 * r + 4 * w) = some (.rowData r w) := by
  rw [rowRegAt, if_neg (by omega), if_pos (by omega), show (0x20 + 0x40 * r + 4 * w) / 0x40 = r by omega,
    show ((0x20 + 0x40 * r + 4 * w) % 0x40 - 0x20) / 4 = w by omega]

theorem rowRegAt_reserved (r : Nat) {w : Nat} (hw : w < 7) : rowRegAt (4 + 0x40 * r + 4 * w) = none := by
  rw [rowRegAt, if_neg (by omega), if_neg (by omega)]

theorem regAt_frame (p : Params) {w : Nat} (hw : w < 4) : regAt p (0x020 + 4 * w) = some (.frame w) := by
  have hcases : w = 0 ∨ w = 1 ∨ w = 2 ∨ w = 3 := by omega
  rcases hcases with rfl | rfl | rfl | rfl <;> rfl

/-- From the first offset after FRAME3 on, only the slot area and the row area are mapped. -/
theorem regAt_of_ge (p : Params) {off : Nat} (h : 0x030 ≤ off) : regAt p off =
    if 0x800 ≤ off ∧ off < 0x800 + 8 * p.nDev then slotRegAt (off - 0x800)
    else if 0x1000 ≤ off ∧ off < 0x1000 + 0x40 * p.nRows then rowRegAt (off - 0x1000) else none := by
  rw [regAt, if_neg (by omega), if_neg (by omega), if_neg (by omega), if_neg (by omega), if_neg (by omega),
    if_neg (by omega), if_neg (by omega), if_neg (by omega)]

theorem regAt_reserved (p : Params) {off : Nat} (h : 0x030 ≤ off) (hlow : off < 0x800) : regAt p off = none := by
  rw [regAt_of_ge p h, if_neg (by omega), if_neg (by omega)]

theorem regAt_slotArea (p : Params) {d : Nat} (hd : d < 0x800) :
    regAt p (0x800 + d) = if d < 8 * p.nDev then slotRegAt d else none := by
  rw [regAt_of_ge p (by omega), Nat.add_sub_cancel_left]
  by_cases h : d < 8 * p.nDev
  · rw [if_pos h, if_pos (by omega)]
  · rw [if_neg h, if_neg (by omega), if_neg (by omega)]

theorem regAt_rowArea {p : Params} (hp : p.nDev ≤ 128) (d : Nat) :
    regAt p (0x1000 + d) = if d < 0x40 * p.nRows then rowRegAt d else none := by
  rw [regAt_of_ge p (by omega), if_neg (by omega), Nat.add_sub_cancel_left]
  by_cases h : d < 0x40 * p.nRows
  · rw [if_pos h, if_pos (by omega)]
  · rw [if_neg h, if_neg (by omega)]

/-- Where a register is found under a condition, it alone is found there. -/
theorem ite_some_eq_some_iff {c q : Prop} [Decidable c] {a o : Reg} (h : c ↔ q) :
    (if c then some a else none) = some o ↔ q ∧ o = a := by
  by_cases hc : c
  · rw [if_pos hc, Option.some.injEq]
    exact ⟨fun ha => ⟨h.1 hc, ha.symm⟩, fun ha => ha.2.symm⟩
  · rw [if_neg hc]
    exact ⟨nofun, fun ha => absurd (h.2 ha.1) hc⟩

/-! ### registers as found -/

theorem regAt_slotKey_iff (p : Params) {k : Nat} (hk : k < 128) (o : Reg) :
    regAt p (0x800 + 8 * k) = some o ↔ k < p.nDev ∧ o = .slotKey k := by
  rw [regAt_slotArea p (by omega), slotRegAt_key]
  exact ite_some_eq_some_iff (by omega)

theorem regAt_slotTemp_iff (p : Params) {k : Nat} (hk : k < 128) (o : Reg) :
    regAt p (0x804 + 8 * k) = some o ↔ k < p.nDev ∧ o = .slotTemp k := by
  rw [show 0x804 + 8 * k = 0x800 + (4 + 8 * k) by omega, regAt_slotArea p (by omega), slotRegAt_temp]
  exact ite_some_eq_some_iff (by omega)

theorem regAt_rowLen_iff {p : Params} (hp : p.nDev ≤ 128) (r : Nat) (o : Reg) :
    regAt p (0x1000 + 0x40 * r) = some o ↔ r < p.nRows ∧ o = .rowLen r := by
  rw [regAt_rowArea hp, rowRegAt_len]
  exact ite_some_eq_some_iff (by omega)

theorem regAt_rowData_iff {p : Params} (hp : p.nDev ≤ 128) (r : Nat) {w : Nat} (hw : w < 8) (o : Reg) :
    regAt p (0x1020 + 0x40 * r + 4 * w) = some o ↔ r < p.nRows ∧ o = .rowData r w := by
  rw [show 0x1020 + 0x40 * r + 4 * w = 0x1000 + (0x20 + 0x40 * r + 4 * w) by omega, regAt_rowArea hp,
    rowRegAt_data r hw]
  exact ite_some_eq_some_iff (by omega)

theorem regAt_rowReserved {p : Params} (hp : p.nDev ≤ 128) (r : Nat) {w : Nat} (hw : w < 7) :
    regAt p (0x1004 + 0x40 * r + 4 * w) = none := by
  rw [show 0x1004 + 0x40 * r + 4 * w = 0x1000 + (4 + 0x40 * r + 4 * w) by omega, regAt_rowArea hp,
    rowRegAt_reserved r hw, ite_self]

/-- What the map finds is a register that the parameters allow (R77). -/
theorem regAt_mapped {p : Params} {off : Nat} {o : Reg} (h : regAt p off = some o) : o.mapped p = true := by
  rcases Nat.lt_or_ge off 0x030 with hlow | hhigh
  · have hoffset := regAt_offset h
    cases o <;> simp only [Reg.offset] at hoffset <;> simp only [Reg.mapped, Bool.and_eq_true, decide_eq_true_eq] <;>
      omega
  · rw [regAt_of_ge p hhigh] at h
    split_ifs at h with hslot hrow
    · rcases slotRegAt_spec h with ⟨_, rfl⟩ | ⟨_, rfl⟩ <;> simp only [Reg.mapped, decide_eq_true_eq] <;> omega
    · rcases rowRegAt_spec h with ⟨_, rfl⟩ | ⟨w, hw, _, rfl⟩ <;>
        simp only [Reg.mapped, Bool.and_eq_true, decide_eq_true_eq] <;> omega

/-- With legal parameters every register stands at a word of the window (R60, R62). -/
theorem Reg.offset_aligned_lt {p : Params} (hp : p.ok = true) {o : Reg} (h : o.mapped p = true) :
    o.offset % 4 = 0 ∧ o.offset < 0x2000 := by
  obtain ⟨⟨_, hdev⟩, _, hrows⟩ := (Params.ok_iff p).1 hp
  cases o
  case param | cmd | status | result0 | result1 | nrows | tableCount => exact ⟨rfl, by decide⟩
  all_goals
    simp only [Reg.mapped, Bool.and_eq_true, decide_eq_true_eq] at h
    simp only [Reg.offset]
    omega

/-- Settles O32: the map is read off area by area; every answer of it has the offset asked for. -/
theorem addressMapIsExact : Obligations.AddressMapIsExact := by
  unfold Obligations.AddressMapIsExact
  refine ⟨fun p => ⟨rfl, rfl, rfl, rfl, rfl, rfl, rfl, rfl, fun w hw => regAt_frame p hw,
    fun off h hlow => regAt_reserved p h hlow⟩, fun p hp => ?areas, fun p off o hp h => ?found⟩
  case areas =>
    obtain ⟨⟨_, hdev⟩, _⟩ := (Params.ok_iff p).1 hp
    refine ⟨fun k hk => regAt_slotKey_iff p hk, fun k hk => regAt_slotTemp_iff p hk, fun off hlow hhigh => ?_,
      fun r _ => regAt_rowLen_iff hdev r, fun r _ w hw => regAt_rowReserved hdev r hw,
      fun r _ w hw => regAt_rowData_iff hdev r hw⟩
    rw [regAt_of_ge p (by omega), if_neg (by omega), if_neg (by omega)]
  case found =>
    have hoffset := regAt_offset h
    have hmapped := regAt_mapped h
    exact ⟨hmapped, hoffset, hoffset ▸ Reg.offset_aligned_lt hp hmapped⟩

/-! ### the platform window -/

/-- Settles O50: an offset has 13 bits, exactly the size of the window. -/
theorem platformWindowStartsAtBase : Obligations.PlatformWindowStartsAtBase := by
  unfold Obligations.PlatformWindowStartsAtBase
  refine ⟨fun off => ?_, fun a off h => ?_⟩
  · have hoff := off.isLt
    rw [offsetOfPlatform, if_pos (by omega), Nat.add_sub_cancel_left, BitVec.ofNat_toNat, BitVec.setWidth_eq]
  · unfold offsetOfPlatform at h
    split at h
    case isFalse => cases h
    case isTrue hin =>
      obtain rfl := Option.some.inj h
      rw [BitVec.toNat_ofNat]
      omega

end Sys2Proof.Machine
end

section
/-!
SUPPORT. Command words as bytes, the fields of the read-only registers, and what a read hands to the host
(spec/30_encoding.md R91, spec/10_state.md R22 to R40, spec/20_memory.md R62 to R70); O2, O3, O34 and O43.
-/

namespace Sys2Proof.Machine

/-! ### command words -/

/-- Settles O2: the table read at the five words. -/
theorem writtenOutWordsDecode : Obligations.WrittenOutWordsDecode := by
  unfold Obligations.WrittenOutWordsDecode
  refine ⟨?_, ?_, ?_, ?_, ?_⟩ <;> decide

theorem bytesOfWord_injective {v w : Word} (h : bytesOfWord v = bytesOfWord w) : v = w := by
  simp only [bytesOfWord, List.cons.injEq, and_true] at h
  obtain ⟨h0, h1, h2, h3⟩ := h
  rw [← wordOfBytes_bytes v, h0, h1, h2, h3, wordOfBytes_bytes]

/-- Settles O3: the bytes of a word decode as the word does, and determine it. -/
theorem commandBytesRoundTrip : Obligations.CommandBytesRoundTrip := by
  unfold Obligations.CommandBytesRoundTrip
  refine fun i rest => ⟨by cases i <;> rfl, ?_, fun w => bytesOfWord_injective⟩
  rw [decodeBytes_bytesOfWord, (decodeWord_eq_ok_iff _ i).2 rfl]

/-! ### fields -/

theorem Result0.word_fields (r : Result0) : r.word.extractLsb' 0 2 = r.outcome.code ∧
    r.word.extractLsb' 2 2 = 0#2 ∧ r.word.extractLsb' 4 4 = r.reason.code ∧ r.word.getLsbD 8 = r.suspiciousId ∧
    r.word.getLsbD 9 = r.neg ∧ r.word.extractLsb' 10 6 = 0#6 ∧ r.word.extractLsb' 16 6 = r.rowSel ∧
    r.word.extractLsb' 22 10 = 0#10 := by
  unfold Result0.word
  refine ⟨?_, ?_, ?_, ?suspiciousId, ?neg, ?_, ?_, ?top⟩
  case suspiciousId | neg => simp only [BitVec.getLsbD_append, BitVec.getLsbD_ofBool]; simp
  case top =>
    iterate 7 rw [BitVec.extractLsb'_append_eq_of_le (by omega)]
    exact BitVec.extractLsb'_eq_self
  all_goals
    repeat rw [BitVec.extractLsb'_append_eq_of_le (by omega)]
    exact BitVec.extractLsb'_append_eq_right

theorem Result1.word_fields (r : Result1) : r.word.extractLsb' 0 8 = r.deviceId ∧
    r.word.extractLsb' 8 5 = r.channel ∧ r.word.extractLsb' 13 3 = 0#3 ∧ r.word.extractLsb' 16 16 = r.tempTenths := by
  unfold Result1.word
  refine ⟨?_, ?_, ?_, ?top⟩
  case top =>
    iterate 3 rw [BitVec.extractLsb'_append_eq_of_le (by omega)]
    exact BitVec.extractLsb'_eq_self
  all_goals
    repeat rw [BitVec.extractLsb'_append_eq_of_le (by omega)]
    exact BitVec.extractLsb'_append_eq_right

theorem Slot.keyWord_fields (x : Slot) : x.keyWord.getLsbD 0 = x.used ∧ x.keyWord.getLsbD 1 = x.tracked ∧
    x.keyWord.extractLsb' 2 6 = 0#6 ∧ x.keyWord.extractLsb' 8 8 = x.id ∧ x.keyWord.extractLsb' 16 5 = x.ch ∧
    x.keyWord.extractLsb' 21 11 = 0#11 := by
  unfold Slot.keyWord
  refine ⟨?used, ?tracked, ?_, ?_, ?_, ?top⟩
  case used | tracked => simp only [BitVec.getLsbD_append, BitVec.getLsbD_ofBool]; simp
  case top =>
    iterate 5 rw [BitVec.extractLsb'_append_eq_of_le (by omega)]
    exact BitVec.extractLsb'_eq_self
  all_goals
    repeat rw [BitVec.extractLsb'_append_eq_of_le (by omega)]
    exact BitVec.extractLsb'_append_eq_right

/-- Byte `b` of FRAMEw is Frame[4w + b] (R36, R67). -/
theorem wordByte_frameWord (F : Frame) (w : Nat) {b : Nat} (hb : b < 4) :
    wordByte (frameWord F w) b = F.byte (4 * w + b) := by
  obtain ⟨h0, h1, h2, h3⟩ :=
    wordByte_append (F.byte (4 * w + 3)) (F.byte (4 * w + 2)) (F.byte (4 * w + 1)) (F.byte (4 * w))
  have hcases : b = 0 ∨ b = 1 ∨ b = 2 ∨ b = 3 := by omega
  rcases hcases with rfl | rfl | rfl | rfl
  · exact h0
  · exact h1
  · exact h2
  · exact h3

/-- Settles O43: each packed word taken apart where it was put together. -/
theorem readOnlyRegistersHaveTheirFields : Obligations.ReadOnlyRegistersHaveTheirFields := by
  unfold Obligations.ReadOnlyRegistersHaveTheirFields
  exact ⟨Result0.word_fields, Result1.word_fields, fun F w b hb => wordByte_frameWord F w hb,
    fun F => frameWord_three_high, Slot.keyWord_fields, fun x => BitVec.toInt_signExtend_of_le (by omega),
    ⟨rfl, rfl, rfl, rfl⟩, rfl, rfl, rfl, rfl, rfl, rfl, rfl, rfl, rfl, rfl⟩

/-! ### reads -/

/-- A register of `n` bits as read: its bits, then zeros. -/
theorem extractLsb'_setWidth_word {n : Nat} (x : BitVec n) (h : n ≤ 32) (m : Nat) :
    (x.setWidth 32).extractLsb' 0 n = x ∧ (x.setWidth 32).extractLsb' n m = 0#m := by
  constructor
  · rw [BitVec.extractLsb'_setWidth_of_le (by omega), BitVec.extractLsb'_eq_self]
  · apply BitVec.eq_of_getLsbD_eq
    intro k _
    simp

/-- Byte `b` of ROW_DATA[r][w] as read is raw byte 4w + b (R33, R67). -/
theorem readReg_rowData_byte (s : State) (r w : Nat) {b : Nat} (hb : b < 4) :
    (readReg s (.rowData r w)).extractLsb' (8 * b) 8 = rowByte (s.rowAt r) (4 * w + b) := by
  rw [rowByte, show (4 * w + b) / 4 = w by omega, show (4 * w + b) % 4 = b by omega]
  rfl

/-- An event's passing is no register's business (log entry 5). -/
theorem readReg_passEvent (rest : List HostOp) (s : State) (o : Reg) : readReg (passEvent rest s) o = readReg s o := by
  cases o <;> rfl

theorem memRead_legal {addr : Offset} {s : State} {o : Reg} (ha : addr.toNat % 4 = 0)
    (hr : regAt s.param addr.toNat = some o) : memRead addr .word s = (readReg s o, s) := by
  simp [memRead, (alignedWord_iff addr .word).2 ⟨rfl, ha⟩, hr]

theorem memRead_illegal {addr : Offset} {n : Size} {s : State}
    (h : n ≠ .word ∨ addr.toNat % 4 ≠ 0 ∨ regAt s.param addr.toNat = none) :
    memRead addr n s = (0#32, raise .access s) := by
  rcases memRead_cases addr n s with ⟨o, ha, hr, _⟩ | ⟨_, hm⟩
  · obtain ⟨hn, ha⟩ := (alignedWord_iff addr n).1 ha
    simp [hn, ha, hr] at h
  · exact hm

/-- Settles O34: the registers' values by their packing, and the two outcomes of a read. -/
theorem readsReturnCurrentValues : Obligations.ReadsReturnCurrentValues := by
  unfold Obligations.ReadsReturnCurrentValues
  refine ⟨fun s => ?fixed, fun s k => ⟨rfl, rfl⟩, fun s r => extractLsb'_setWidth_word _ (by omega) 16,
    fun s r w b hb => readReg_rowData_byte s r w hb, fun s addr n rest he hh => ⟨fun o hn ha hr => ?legal,
      fun hill => ?illegal, rfl⟩⟩
  case fixed =>
    obtain ⟨hnrows, hnrows'⟩ := extractLsb'_setWidth_word s.nrows (by omega) 25
    obtain ⟨hcount, hcount'⟩ := extractLsb'_setWidth_word s.tableCount (by omega) 24
    refine ⟨?_, ?_, ?_, ?_, ?_, rfl, rfl, rfl, rfl, rfl, rfl, rfl, rfl, hnrows, hnrows', hcount, hcount'⟩ <;>
      rw [readReg, statusWord_getLsbD] <;> simp
  case legal =>
    subst hn
    rw [step_event he hh, hostEvent, memRead_legal (s := passEvent rest s) ha hr, readReg_passEvent]
    rfl
  case illegal =>
    rw [step_event he hh, hostEvent, memRead_illegal (s := passEvent rest s) hill, raise_access_eq]
    rfl

end Sys2Proof.Machine
end

section
/-!
SUPPORT. Writes to row memory, one at a time and the eight of a host program's WROW
(spec/10_state.md R32, R33, spec/20_memory.md R67, spec/30_encoding.md R101); O39, O40 and O48.
-/

namespace Sys2Proof.Machine

/-! ### one write -/

/-- A word write at a register's own offset, with BUSY = 0, is that register's write. -/
theorem step_wordWrite_offset {s : State} {v : Word} {rest : List HostOp} {o : Reg} (hp : s.param.ok = true)
    (he : engineTurn s = none) (hb : s.busy = false) (hr : regAt s.param o.offset = some o)
    (hh : s.host = .write (BitVec.ofNat 13 o.offset) .word v :: rest) :
    step s = .next (writeReg v (passEvent rest s) o) := by
  obtain ⟨haligned, hlt⟩ := Reg.offset_aligned_lt hp (regAt_mapped hr)
  have haddr : (BitVec.ofNat 13 o.offset).toNat = o.offset := by
    rw [BitVec.toNat_ofNat, Nat.mod_eq_of_lt hlt]
  exact step_wordWrite_reg he hh (by rw [haddr, haligned]) hb (by rw [haddr, hr])

theorem step_writeRowLen {s : State} {r : Nat} {v : Word} {rest : List HostOp} (hp : s.param.ok = true)
    (hr : r < s.param.nRows) (he : engineTurn s = none) (hb : s.busy = false)
    (hh : s.host = .write (BitVec.ofNat 13 (Reg.rowLen r).offset) .word v :: rest) :
    step s = .next (writeRowLen r v (passEvent rest s)) := by
  obtain ⟨⟨_, hdev⟩, _⟩ := (Params.ok_iff _).1 hp
  exact step_wordWrite_offset (o := .rowLen r) hp he hb ((regAt_rowLen_iff hdev r _).2 ⟨hr, rfl⟩) hh

theorem step_writeRowData {s : State} {r w : Nat} {v : Word} {rest : List HostOp} (hp : s.param.ok = true)
    (hr : r < s.param.nRows) (hw : w < 8) (he : engineTurn s = none) (hb : s.busy = false)
    (hh : s.host = .write (BitVec.ofNat 13 (Reg.rowData r w).offset) .word v :: rest) :
    step s = .next (writeRowData r w v (passEvent rest s)) := by
  obtain ⟨⟨_, hdev⟩, _⟩ := (Params.ok_iff _).1 hp
  exact step_wordWrite_offset (o := .rowData r w) hp he hb ((regAt_rowData_iff hdev r hw _).2 ⟨hr, rfl⟩) hh

theorem rowAt_data_length {s : State} {r : Nat} (hwf : RowMemory.wf s.param.nRows s.rows = true)
    (hr : r < s.param.nRows) : r < s.rows.length ∧ (s.rowAt r).data.length = 8 := by
  obtain ⟨hlength, hdata⟩ := (RowMemory.wf_iff _ _).1 hwf
  have hlt : r < s.rows.length := by rwa [hlength]
  exact ⟨hlt, by rw [rowAt_of_lt hlt]; exact hdata _ (List.getElem_mem hlt)⟩

theorem setWidth_16_32 (v : Word) : (v.setWidth 16).setWidth 32 = v &&& 0x0000FFFF#32 := by
  apply BitVec.eq_of_toNat_eq
  rw [BitVec.toNat_and, show (0x0000FFFF#32).toNat = 2 ^ 16 - 1 from rfl, Nat.and_two_pow_sub_one_eq_mod,
    BitVec.toNat_setWidth, BitVec.toNat_setWidth]
  omega

theorem rowByte_writeRowLen (s : State) (r : Nat) (v : Word) (q j : Nat) :
    rowByte ((writeRowLen r v s).rowAt q) j = rowByte (s.rowAt q) j := by
  rw [rowAt_writeRowLen]
  split
  case isTrue h => rw [h.1]; rfl
  case isFalse => rfl

/-- Settles O39: the row's length is replaced and its words are not. -/
theorem rowLenWriteKeepsLow16Bits : Obligations.RowLenWriteKeepsLow16Bits := by
  unfold Obligations.RowLenWriteKeepsLow16Bits
  intro s r v rest hp hwf hr he hb hh
  obtain ⟨hlt, _⟩ := rowAt_data_length hwf hr
  refine ⟨_, step_writeRowLen hp hr he hb hh, ?value, fun q hq => ?len, rowByte_writeRowLen (passEvent rest s) r v,
    rfl, writeRowLen_wf (s := passEvent rest s) r v hwf⟩
  case value =>
    rw [readReg, rowAt_writeRowLen, if_pos ⟨rfl, hlt⟩]
    exact setWidth_16_32 v
  case len => rw [rowAt_writeRowLen, if_neg fun h => hq h.1, rowAt_passEvent]

/-- Every raw byte after a write to ROW_DATA[r][w] (R33, R67). -/
theorem rowByte_writeRowData {s : State} {r w : Nat} (hwf : RowMemory.wf s.param.nRows s.rows = true)
    (hr : r < s.param.nRows) (hw : w < 8) (v : Word) (q j : Nat) :
    rowByte ((writeRowData r w v s).rowAt q) j =
      if q = r ∧ j / 4 = w then wordByte v (j % 4) else rowByte (s.rowAt q) j := by
  obtain ⟨hlt, hdata⟩ := rowAt_data_length hwf hr
  rw [rowAt_writeRowData]
  by_cases hq : q = r
  · subst hq
    rw [if_pos ⟨rfl, hlt⟩, rowByte_set]
    simp only [hdata, hw, true_and, and_true]
  · rw [if_neg fun h => hq h.1, if_neg fun h => hq h.1]

theorem rowLen_writeRowData (s : State) (r w : Nat) (v : Word) (q : Nat) :
    ((writeRowData r w v s).rowAt q).len = (s.rowAt q).len := by
  rw [rowAt_writeRowData]
  split
  case isTrue h => rw [h.1]
  case isFalse => rfl

/-- Settles O40: the word is replaced, and its four bytes with it. -/
theorem rowDataWriteStoresFourBytes : Obligations.RowDataWriteStoresFourBytes := by
  unfold Obligations.RowDataWriteStoresFourBytes
  intro s r w v rest hp hwf hr hw he hb hh
  have hbyte := rowByte_writeRowData (s := passEvent rest s) hwf hr hw v
  refine ⟨_, step_writeRowData hp hr hw he hb hh, ?value, fun b hb4 => ?written, fun q j hqj => ?others,
    rowLen_writeRowData (passEvent rest s) r w v, rfl, writeRowData_wf (s := passEvent rest s) r w v hwf⟩
  case value =>
    obtain ⟨hlt, hdata⟩ := rowAt_data_length hwf hr
    rw [readReg, rowAt_writeRowData, if_pos ⟨rfl, hlt⟩]
    simp [hdata, hw]
  case written =>
    rw [hbyte, if_pos ⟨rfl, by omega⟩, show (4 * w + b) % 4 = b by omega]
    rfl
  case others => exact (hbyte q j).trans (if_neg hqj)

/-! ### the writes of WROW -/

/-- From `s` to `t` the host's list and the delay may change, and the data words of row `r`; nothing else. -/
def OnlyRowData (r : Nat) (s t : State) : Prop :=
  t = { s with host := t.host, wait := t.wait, rows := t.rows } ∧ (∀ q, q ≠ r → t.rowAt q = s.rowAt q) ∧
    (t.rowAt r).len = (s.rowAt r).len ∧ t.rows.length = s.rows.length

theorem OnlyRowData.refl (r : Nat) (s : State) : OnlyRowData r s s := ⟨rfl, fun _ _ => rfl, rfl, rfl⟩

theorem OnlyRowData.trans {r : Nat} {s t u : State} (hst : OnlyRowData r s t) (htu : OnlyRowData r t u) :
    OnlyRowData r s u := by
  obtain ⟨hframe, hother, hlen, hlength⟩ := hst
  obtain ⟨hframe', hother', hlen', hlength'⟩ := htu
  exact ⟨hframe'.trans (by rw [hframe]), fun q hq => (hother' q hq).trans (hother q hq), hlen'.trans hlen,
    hlength'.trans hlength⟩

theorem onlyRowData_writeRowData (r w : Nat) (v : Word) (rest : List HostOp) (s : State) :
    OnlyRowData r s (writeRowData r w v (passEvent rest s)) := by
  refine ⟨rfl, fun q hq => ?_, rowLen_writeRowData (passEvent rest s) r w v r, by simp⟩
  rw [rowAt_writeRowData, if_neg fun h => hq h.1, rowAt_passEvent]

/-- Byte `b` of the word that WROW packs is byte 4w + b of the list, 0 beyond its end (R101). -/
theorem wordByte_packWord (bytes : List Byte) (j : Nat) :
    wordByte (packWord bytes (j / 4)) (j % 4) = bytes.getD j 0#8 := by
  rw [packWord, wordByte_frameWord bytes _ (Nat.mod_lt _ (by omega)), Nat.div_add_mod]
  rfl

/-- The write of word `w` in WROW r (R101). -/
def wrowWrite (r : Nat) (bytes : List Byte) (w : Nat) : HostOp :=
  .write (BitVec.ofNat 13 (Reg.rowData r w).offset) .word (packWord bytes w)

/-- The last `n` writes of WROW r load the bytes from word 8 - n on, and nothing else. -/
theorem run_wrowWrites {r : Nat} (bytes : List Byte) (rest : List HostOp) : ∀ (n w : Nat) (s : State), w + n = 8 →
    s.param.ok = true → RowMemory.wf s.param.nRows s.rows = true → r < s.param.nRows → s.pending = none →
    s.host = (List.range' w n).map (wrowWrite r bytes) ++ rest →
    ∃ t, Sys2Proof.core.run n s = .next t ∧ t.host = rest ∧ OnlyRowData r s t ∧
      ∀ j < 32, rowByte (t.rowAt r) j = if 4 * w ≤ j then bytes.getD j 0#8 else rowByte (s.rowAt r) j := by
  intro n
  induction n with
  | zero =>
    intro w s hw _ _ _ _ hh
    exact ⟨s, rfl, hh, .refl r s, fun j hj => (if_neg (by omega)).symm⟩
  | succ n ih =>
    intro w s hw hp hwf hr hpending hh
    obtain ⟨events, hevents⟩ : ∃ events, events = (List.range' (w + 1) n).map (wrowWrite r bytes) ++ rest := ⟨_, rfl⟩
    rw [List.range'_succ, List.map_cons, List.cons_append, ← hevents] at hh
    have hstep := step_writeRowData hp hr (by omega) ((engineTurn_eq_none_iff s).2 (.inl hpending))
      ((busy_eq_false_iff s).2 hpending) hh
    have hbyte := rowByte_writeRowData (w := w) (s := passEvent events s) hwf hr (by omega) (packWord bytes w) r
    obtain ⟨t, hrun, hhost, honly, hloaded⟩ := ih (w + 1)
      (writeRowData r w (packWord bytes w) (passEvent events s)) (by omega) hp
      (writeRowData_wf (s := passEvent events s) r w (packWord bytes w) hwf) hr hpending hevents
    refine ⟨t, (core_run_succ hstep).trans hrun, hhost, (onlyRowData_writeRowData ..).trans honly, fun j hj => ?_⟩
    rw [hloaded j hj, hbyte j]
    by_cases hlater : 4 * (w + 1) ≤ j
    · rw [if_pos hlater, if_pos (by omega)]
    · rw [if_neg hlater]
      by_cases hword : j / 4 = w
      · rw [if_pos ⟨rfl, hword⟩, if_pos (by omega), ← hword, wordByte_packWord]
      · rw [if_neg fun h => hword h.2, if_neg (by omega)]
        rfl

/-- Settles O48: all eight writes, from word 0 on. -/
theorem writeRowLoadsTheRow : Obligations.WriteRowLoadsTheRow := by
  unfold Obligations.WriteRowLoadsTheRow
  intro s r bytes rest hinv hb hform hh
  have hr : r < s.param.nRows := by
    simp only [HostForm.wf, Bool.and_eq_true, decide_eq_true_eq] at hform
    exact hform.1
  have hhost : s.host = (List.range' 0 8).map (wrowWrite r bytes) ++ rest := by
    rw [hh, ← List.range_eq_range']
    rfl
  have hidle := (busy_eq_false_iff s).1 hb
  obtain ⟨t, hrun, hrest, ⟨hframe, hother, hlen, hlength⟩, hloaded⟩ :=
    run_wrowWrites bytes rest 8 0 s rfl hinv.params hinv.rowMemory hr hidle hhost
  refine ⟨t, hrun, hrest, fun j hj => (hloaded j hj).trans (if_pos (by omega)), hother, hlen, hlength, ?_⟩
  rw [hframe]
  exact ⟨rfl, rfl, rfl, hidle, rfl, rfl, ⟨rfl, rfl, rfl⟩, ⟨rfl, rfl, rfl, rfl, rfl, rfl⟩, rfl, rfl⟩

end Sys2Proof.Machine
end

section
/-!
SUPPORT. A poll of STATUS, while BUSY and after it (spec/30_encoding.md R101, spec/20_memory.md R73); O49.
-/

namespace Sys2Proof.Machine

theorem step_poll_busy {s : State} {rest : List HostOp} (he : engineTurn s = none) (hh : s.host = .poll :: rest)
    (hb : s.busy = true) : step s = .next (reply (statusWord s) (passEvent (.poll :: rest) s)) := by
  rw [step_event he hh, hostEvent, if_pos hb]

theorem step_poll_idle {s : State} {rest : List HostOp} (hh : s.host = .poll :: rest) (hb : s.busy = false) :
    step s = .next (reply (statusWord s) (passEvent rest s)) := by
  have he : engineTurn s = none := (engineTurn_eq_none_iff s).2 (.inl ((busy_eq_false_iff s).1 hb))
  rw [step_event he hh, hostEvent, if_neg (by simp [hb])]

/-- A completion step keeps the inputs, the error bits and the host's side, whatever the command (R222, R223, R227). -/
theorem exec_frame {i : Instr} {s t : State} (h : exec i s = .next t) :
    InputsKept s t ∧ ErrorsKept s t ∧ HostKept s t := by
  cases i
  case nop =>
    obtain rfl : complete s = t := by simpa using h
    exact ⟨⟨rfl, rfl, rfl, fun _ _ => rfl⟩, ⟨rfl, rfl, rfl⟩, rfl, rfl, rfl⟩
  case decode =>
    obtain rfl : complete (decodeEffect s) = t := by simpa using h
    exact complete_decodeEffect_frame s
  case clearTable =>
    obtain rfl : complete (freeTable s) = t := by simpa using h
    obtain ⟨hinputs, herrors, _, hhost⟩ := complete_freeTable_frame s
    exact ⟨hinputs, herrors, hhost⟩

/-- The poll is over: the host's list goes on with `rest`, BUSY = 0, and the last value read is STATUS as it stands. -/
def PollDone (rest : List HostOp) (t : State) : Prop :=
  ∃ v vs, t.host = rest ∧ t.busy = false ∧ t.replies = v :: vs ∧ v = statusWord t ∧ v.getLsbD 0 = false

/-- With BUSY = 0 one reading ends the poll. -/
theorem run_poll_idle {s : State} {rest : List HostOp} (hh : s.host = .poll :: rest) (hb : s.busy = false) :
    ∃ t, Sys2Proof.core.run 1 s = .next t ∧ PollDone rest t ∧ InputsKept s t ∧ ErrorsKept s t := by
  have hbit : (statusWord s).getLsbD 0 = false := by rw [statusWord_getLsbD, hb]; rfl
  exact ⟨_, core_run_one (step_poll_idle hh hb), ⟨_, _, rfl, hb, rfl, rfl, hbit⟩, ⟨rfl, rfl, rfl, fun _ _ => rfl⟩,
    rfl, rfl, rfl⟩

/-- A poll takes one reading for each event of the delay, the completion step, and the reading that ends it. -/
theorem run_poll {rest : List HostOp} : ∀ (n : Nat) (s : State), s.wait = n → s.host = .poll :: rest →
    ∃ k ≤ n + 2, ∃ t, Sys2Proof.core.run k s = .next t ∧ PollDone rest t ∧ InputsKept s t ∧ ErrorsKept s t := by
  intro n
  induction n with
  | zero =>
    intro s hw hh
    cases hb : s.busy with
    | false =>
      obtain ⟨t, hrun⟩ := run_poll_idle hh hb
      exact ⟨1, by omega, t, hrun⟩
    | true =>
      obtain ⟨i, hp⟩ := (busy_eq_true_iff s).1 hb
      have hturn : engineTurn s = some i := (engineTurn_eq_some_iff s i).2 ⟨hp, .inl hw⟩
      obtain ⟨u, hexec, _, hidle, _⟩ := exists_exec_completed i s
      obtain ⟨hinputs, herrors, hhost, _⟩ := exec_frame hexec
      obtain ⟨t, hrun, hdone, hinputs', herrors'⟩ := run_poll_idle (hhost.trans hh) hidle
      exact ⟨2, by omega, t, (core_run_succ ((step_engine hturn).trans hexec)).trans hrun, hdone,
        hinputs.trans hinputs', herrors.trans herrors'⟩
  | succ n ih =>
    intro s hw hh
    cases hb : s.busy with
    | false =>
      obtain ⟨t, hrun⟩ := run_poll_idle hh hb
      exact ⟨1, by omega, t, hrun⟩
    | true =>
      have he : engineTurn s = none := (engineTurn_eq_none_iff s).2 (.inr ⟨by omega, by simp [hh]⟩)
      obtain ⟨k, hk, t, hrun, hdone, hinputs, herrors⟩ :=
        ih (reply (statusWord s) (passEvent (.poll :: rest) s)) (by simp [hw]) rfl
      exact ⟨k + 1, by omega, t, (core_run_succ (step_poll_busy he hh hb)).trans hrun, hdone, hinputs, herrors⟩

/-- Settles O49: the induction over the delay. -/
theorem pollEndsWithBusyZero : Obligations.PollEndsWithBusyZero := by
  unfold Obligations.PollEndsWithBusyZero
  refine ⟨fun s rest he hh hb => step_poll_busy he hh hb, fun s rest hh => ?_⟩
  obtain ⟨k, hk, t, hrun, ⟨v, vs, hhost, hidle, hreplies, hv, hbit⟩, hinputs, herrors⟩ := run_poll _ s rfl hh
  exact ⟨k, hk, t, v, vs, hrun, hhost, hidle, hreplies, hv, hbit, hinputs, herrors⟩

end Sys2Proof.Machine
end
